-- ==== Sys2Proof/Word.lean ====
section
/-! DEFINITION. The two word types of the bus: the byte and the 32-bit unsigned value (00_scope.md R8, R9). -/

namespace Sys2Proof

/-- A byte, bit 0 its least significant bit (R9). -/
abbrev Byte := BitVec 8

/-- The spec's `u32`: register addresses, requested lengths, the values of the length registers (R8, R9). -/
abbrev U32 := BitVec 32

end Sys2Proof
end

