-- ==== Sys2Proof/Syntax.lean ====
section
/-! DEFINITION. What the spec writes down: opcodes, registers, instructions (one per row of spec/opcode_table.json),
port words, host responses and trace lines (30_encoding.md R80, R90 to R94). -/

namespace Sys2Proof

/-- The seven opcodes, a closed enumeration (R80, R90(b)). -/
inductive Opcode
  | statusRead
  | configRead
  | configWrite
  | dataRead
  | dataWrite
  | powerOn
  | powerOff
  deriving DecidableEq, Repr

/-- The four registers of the module that have an address, a closed enumeration (R30, R90(b)). -/
inductive Register
  | txLen
  | txBuf
  | rxLen
  | rxBuf
  deriving DecidableEq, Repr

/-- The rows of the opcode table: seven bus frames, the composite POLL, four host commands. -/
inductive Instr
  /-- STATUS_READ (R111). -/
  | statusRead
  /-- CONFIG_READ A, L (R112). -/
  | configRead (address length : U32)
  /-- CONFIG_WRITE A, L (R113). -/
  | configWrite (address length : U32)
  /-- DATA_READ n (R114). -/
  | dataRead (count : U32)
  /-- DATA_WRITE p (R115). -/
  | dataWrite (payload : List Byte)
  /-- POWER_ON (R116). -/
  | powerOn
  /-- POWER_OFF (R117). -/
  | powerOff
  /-- POLL flag, n (R130). -/
  | poll (flag : Byte) (attempts : Nat)
  /-- INIT (R161). -/
  | init
  /-- READ (R141). -/
  | read
  /-- WRITE payload (R143). -/
  | write (payload : List Byte)
  /-- RELEASE (R162). -/
  | release
  deriving DecidableEq, Repr

/-- What the host presents at the command port: the 2-bit code and the payload handed over with it (R91). -/
structure PortWord where
  code : BitVec 2
  payload : List Byte
  deriving DecidableEq, Repr

/-- A frame of the bus as its bytes give it back to a receiver (R95): the lengths are those that the formats can express (R86),
which are more than the u32 operands of an instruction. -/
inductive BusFrame
  | statusRead
  | configRead (address : U32) (length : Nat)
  | configWrite (address : U32) (length : Nat)
  | dataRead (count : Nat)
  | dataWrite (payload : List Byte)
  | powerOn
  | powerOff
  deriving DecidableEq, Repr

/-- The two things that are encoded: the frames on the bus and the words of the command port. -/
inductive Encoded
  | frame (bytes : List Byte)
  | command (word : PortWord)
  deriving DecidableEq, Repr

/-- The one failure of a frame constructor, raised for length 0 (R110). -/
inductive FrameError
  | invalidArgument
  deriving DecidableEq, Repr

/-- The response codes of R92. -/
inductive RespCode
  | ok
  | notReady
  | pollTimeout
  | insufficientSpace
  | invalidArgument
  | powerOnTimeout
  | busUnavailable
  | badState
  deriving DecidableEq, Repr

/-- The `detail` field of a READ response (R92). -/
inductive Detail
  | none
  | noData
  | notReadyLen
  | notReadyBuf
  deriving DecidableEq, Repr

/-- A line of a trace (R93): `X out=[..] in=[..]` (an `answer` of `none` is `in=FAIL`), `D`, `=> code data detail`. -/
inductive Event
  | exchange (out : List Byte) (answer : Option (List Byte))
  | delay (duration : Nat)
  | response (code : RespCode) (data : List Byte) (detail : Detail)
  deriving DecidableEq, Repr

end Sys2Proof
end

