-- ==== Sys2Proof/Config.lean ====
section
/-! DEFINITION. What the spec leaves to the implementation or to the environment: the twenty named parameters
(00_scope.md R6, R7), the transport oracle (20_memory.md R52) and the value of a response byte that no response has. -/

namespace Sys2Proof

/-- The parameters of R6 with the constraints of R7 as proof fields. The defaults are the spec's reference set REFCFG
(92_eei_decisions.md D28; it gives `FLAG_ERROR` no value, 0 stands there): they show that the constraints can be met and
are what the tests print bytes with. No statement can see them through `Config.params`. -/
structure Params where
  opcStatusRead : Byte := 0x06
  opcConfigRead : Byte := 0x0A
  opcConfigWrite : Byte := 0x0C
  opcDataRead : Byte := 0x81
  opcDataWrite : Byte := 0x0E
  opcPowerOn : Byte := 0x04
  opcPowerOff : Byte := 0x02
  addrTxLen : U32 := 0x00000008
  addrTxBuf : U32 := 0x00002000
  addrRxLen : U32 := 0x00000004
  addrRxBuf : U32 := 0x00001000
  flagSlaveOn : Byte := 0x01
  flagFifoReady : Byte := 0x04
  flagRdwrFinished : Byte := 0x20
  flagError : Byte := 0x00
  fill : Byte := 0x00
  pwrAttempts : Nat := 5
  fifoAttempts : Nat := 3
  finAttempts : Nat := 3
  attemptInterval : Nat := 1
  /-- R7(a). -/
  opcodes_distinct : [opcStatusRead, opcConfigRead, opcConfigWrite, opcDataRead, opcDataWrite, opcPowerOn,
    opcPowerOff].Nodup := by decide
  /-- R7(b). -/
  pwrAttempts_pos : 1 ≤ pwrAttempts := by decide
  /-- R7(b). -/
  fifoAttempts_pos : 1 ≤ fifoAttempts := by decide
  /-- R7(b). -/
  finAttempts_pos : 1 ≤ finAttempts := by decide
  /-- R7(c). -/
  attemptInterval_pos : 0 < attemptInterval := by decide
  deriving Inhabited

/-- The parameter set of this implementation: R6's twenty OPEN values. Free: nothing can prove a value of it beyond R7.
DESIGN CHOICE, safe (log 1). -/
opaque Config.params : Params

/-- The oracle of R52: from the history and the bytes out, either failure (`none`) or the byte at each position of the
response. It answers when the state's scripted answers do not. Free, safe (log 2). -/
opaque Config.transport : List Event → List Byte → Option (Nat → Byte)

/-- The value read at a response position that the response does not have. The block's own frames never read one. Free,
safe (log 11). -/
opaque Config.missingByte : Nat → Byte

end Sys2Proof
end

