-- ==== Sys2Proof/WellFormed.lean ====
section
/-! DEFINITION. The operand domains of the instructions: lengths of at least 1 in config frames (40_frame_encoder.md
R112, R113), payloads of at most 2^32 - 1 bytes (30_encoding.md R91; 92_eei_decisions.md D27). -/

namespace Sys2Proof

/-- A payload length that fits the protocol's 32-bit length fields (R21, R91). -/
abbrev payloadFits (payload : List Byte) : Bool := decide (payload.length < 2 ^ 32)

/-- The operands are in the domain the spec gives them. -/
def Instr.wf : Instr → Bool
  | .statusRead => true
  | .configRead _ length => length != 0#32
  | .configWrite _ length => length != 0#32
  | .dataRead _ => true
  | .dataWrite payload => payloadFits payload
  | .powerOn => true
  | .powerOff => true
  | .poll _ _ => true
  | .init => true
  | .read => true
  | .write payload => payloadFits payload
  | .release => true

end Sys2Proof
end

