-- ==== Sys2Proof/Decode.lean ====
section
/-! DEFINITION. Byte order, the frame constructors (40_frame_encoder.md R110 to R117), the words of the command port
(30_encoding.md R91), and the decoders of both (R95, R91), with the encoder over all instructions after them. -/

namespace Sys2Proof

/-! ### Byte order (R10) -/

/-- `le32` of R10. -/
def le32 (v : U32) : List Byte :=
  [v.extractLsb' 0 8, v.extractLsb' 8 8, v.extractLsb' 16 8, v.extractLsb' 24 8]

/-- `unle32` of R10, on the four bytes of its sequence. -/
def unle32 (b0 b1 b2 b3 : Byte) : U32 :=
  b0.setWidth 32 + 256#32 * b1.setWidth 32 + 65536#32 * b2.setWidth 32 + 16777216#32 * b3.setWidth 32

/-! ### The closed enumerations and their parameters (R6, R88) -/

/-- The opcode byte of an opcode. -/
def Params.opcode (P : Params) : Opcode → Byte
  | .statusRead => P.opcStatusRead
  | .configRead => P.opcConfigRead
  | .configWrite => P.opcConfigWrite
  | .dataRead => P.opcDataRead
  | .dataWrite => P.opcDataWrite
  | .powerOn => P.opcPowerOn
  | .powerOff => P.opcPowerOff

/-- The address of a register. -/
def Params.address (P : Params) : Register → U32
  | .txLen => P.addrTxLen
  | .txBuf => P.addrTxBuf
  | .rxLen => P.addrRxLen
  | .rxBuf => P.addrRxBuf

/-- The opcode that a byte 0 selects (R88). -/
def Params.opcodeOf (P : Params) (b : Byte) : Option Opcode :=
  if b = P.opcStatusRead then some .statusRead
  else if b = P.opcConfigRead then some .configRead
  else if b = P.opcConfigWrite then some .configWrite
  else if b = P.opcDataRead then some .dataRead
  else if b = P.opcDataWrite then some .dataWrite
  else if b = P.opcPowerOn then some .powerOn
  else if b = P.opcPowerOff then some .powerOff
  else none

/-! ### Decoding a frame (R95) -/

/-- Why a byte sequence is no frame, or a word no instruction. -/
inductive DecodeError
  /-- An exchange has at least one byte (R50, R95). -/
  | emptyFrame
  /-- Byte 0 is none of the seven opcode bytes (R95). -/
  | unknownOpcode
  /-- The length is not the one of the opcode (R88, R95). -/
  | badLength
  /-- A frame, or a port word, whose length or payload is no operand of an instruction: not a u32 (R91, R112 to R114;
  92_eei_decisions.md D27). DEDUCED, safe (log 12). -/
  | lengthNotU32
  deriving DecidableEq, Repr

/-- The two operands of a config frame from the bytes after its opcode: A, and L = M + 1 for the field value M, in 1..2^32
(R86, R95). -/
def decodeConfig (mk : U32 → Nat → BusFrame) : List Byte → Except DecodeError BusFrame
  | [a0, a1, a2, a3, m0, m1, m2, m3] => .ok (mk (unle32 a0 a1 a2 a3) ((unle32 m0 m1 m2 m3).toNat + 1))
  | _ => .error .badLength

/-- A frame of one fixed length, from the bytes after its opcode. -/
def decodeFixed (count : Nat) (frame : BusFrame) (rest : List Byte) : Except DecodeError BusFrame :=
  if rest.length = count then .ok frame else .error .badLength

/-- The frame a byte sequence is (R95), whatever its length. The `FILL` bytes are not checked. -/
def decodeFrame (P : Params) : List Byte → Except DecodeError BusFrame
  | [] => .error .emptyFrame
  | op :: rest =>
    match P.opcodeOf op with
    | some .statusRead => decodeFixed 1 .statusRead rest
    | some .configRead => decodeConfig .configRead rest
    | some .configWrite => decodeConfig .configWrite rest
    | some .dataRead => .ok (.dataRead rest.length)
    | some .dataWrite => .ok (.dataWrite rest)
    | some .powerOn => decodeFixed 0 .powerOn rest
    | some .powerOff => decodeFixed 0 .powerOff rest
    | none => .error .unknownOpcode

/-- A length as the u32 operand of an instruction (R112 to R114). -/
def operandU32 (mk : U32 → Instr) (length : Nat) : Except DecodeError Instr :=
  if length < 2 ^ 32 then .ok (mk (BitVec.ofNat 32 length)) else .error .lengthNotU32

/-- The instruction that puts a frame on the bus. A frame longer than any the block can send has none (R118; log 12). -/
def instrOfFrame : BusFrame → Except DecodeError Instr
  | .statusRead => .ok .statusRead
  | .configRead address length => operandU32 (.configRead address) length
  | .configWrite address length => operandU32 (.configWrite address) length
  | .dataRead count => operandU32 .dataRead count
  | .dataWrite payload => if payloadFits payload then .ok (.dataWrite payload) else .error .lengthNotU32
  | .powerOn => .ok .powerOn
  | .powerOff => .ok .powerOff

/-- The command a port word is (R91). All four codes are used; the payload belongs to WRITE alone. -/
def decodeCommand (w : PortWord) : Except DecodeError Instr :=
  if w.code = 0#2 then .ok .init
  else if w.code = 1#2 then .ok .read
  else if w.code = 2#2 then (if payloadFits w.payload then .ok (.write w.payload) else .error .lengthNotU32)
  else .ok .release

/-- Decoding to an instruction, total. -/
def decode (P : Params) : Encoded → Except DecodeError Instr
  | .frame bytes =>
    match decodeFrame P bytes with
    | .ok frame => instrOfFrame frame
    | .error e => .error e
  | .command word => decodeCommand word

/-! ### The frame constructors (R111 to R117) -/

/-- `ENC_STATUS_READ` (R111). -/
def encStatusRead (P : Params) : List Byte := [P.opcode .statusRead, P.fill]

/-- Format C (R82, R86): raised for length 0, so that `L - 1` is never computed there (R118). -/
def encConfig (op : Byte) (address length : U32) : Except FrameError (List Byte) :=
  if length = 0#32 then .error .invalidArgument else .ok (op :: (le32 address ++ le32 (length - 1#32)))

/-- `ENC_CONFIG_READ` (R112). -/
def encConfigRead (P : Params) (address length : U32) : Except FrameError (List Byte) :=
  encConfig (P.opcode .configRead) address length

/-- `ENC_CONFIG_WRITE` (R113). -/
def encConfigWrite (P : Params) (address length : U32) : Except FrameError (List Byte) :=
  encConfig (P.opcode .configWrite) address length

/-- `ENC_DATA_READ` (R114). -/
def encDataRead (P : Params) (count : U32) : List Byte :=
  P.opcode .dataRead :: List.replicate count.toNat P.fill

/-- `ENC_DATA_WRITE` (R115). -/
def encDataWrite (P : Params) (payload : List Byte) : List Byte := P.opcode .dataWrite :: payload

/-- `ENC_POWER_ON` (R116). -/
def encPowerOn (P : Params) : List Byte := [P.opcode .powerOn]

/-- `ENC_POWER_OFF` (R117). -/
def encPowerOff (P : Params) : List Byte := [P.opcode .powerOff]

/-- The words of an instruction: a frame or a port word. `none` where there are none: a config frame of length 0 (R90(a)),
and POLL, which is no word but an expansion into STATUS_READ frames (R94). -/
def encode (P : Params) : Instr → Option Encoded
  | .statusRead => some (.frame (encStatusRead P))
  | .configRead a l => (encConfigRead P a l).toOption.map .frame
  | .configWrite a l => (encConfigWrite P a l).toOption.map .frame
  | .dataRead n => some (.frame (encDataRead P n))
  | .dataWrite p => some (.frame (encDataWrite P p))
  | .powerOn => some (.frame (encPowerOn P))
  | .powerOff => some (.frame (encPowerOff P))
  | .poll _ _ => none
  | .init => some (.command ⟨0#2, []⟩)
  | .read => some (.command ⟨1#2, []⟩)
  | .write p => some (.command ⟨2#2, p⟩)
  | .release => some (.command ⟨3#2, []⟩)

/-! ### Words numbered as the opcode table numbers them -/

/-- The first `count` bytes of a number, the least significant first. -/
def bytesOf : Nat → Nat → List Byte
  | 0, _ => []
  | count + 1, w => BitVec.ofNat 8 w :: bytesOf count (w / 256)

/-- The word a table row stands for. Up to 8 bits it is a word of the command port: the code is the 2 bits the table's mask
0x3 keeps and the payload is empty. Above 8 bits it is a bus frame, byte 0 the least significant.
DESIGN CHOICE, safe (log 17). -/
def tableWord (nbits w : Nat) : Encoded :=
  if nbits ≤ 8 then .command ⟨BitVec.ofNat 2 w, []⟩ else .frame (bytesOf ((nbits + 7) / 8) w)

end Sys2Proof

/-- The instruction the decoder reads from a word whose bits are numbered as spec/opcode_table.json numbers them. -/
def Sys2Proof.decodeTableWord (nbits w : Nat) : Option Sys2Proof.Instr :=
  (Sys2Proof.decode Sys2Proof.Config.params (Sys2Proof.tableWord nbits w)).toOption
end

