-- ==== Sys2Proof/Machine/State.lean ====
section
/-! DEFINITION. The state: the six elements of 10_state.md R20, and as plain data of the model's own the inputs (R12) and
the record of what can be observed (R13). Faults, refusals, the state after reset. -/

namespace Sys2Proof.Machine

/-- `pwr`, the Session's power state (R29). -/
inductive Power
  | off
  | poweringOn
  | on
  | failed
  deriving DecidableEq, Repr

/-- `seq`, the 23 phases of the sequencer (R23), named as there. -/
inductive Phase
  | idle
  | pOn
  | pWait
  | pStat
  | rCfgL
  | rWait1
  | rStat1
  | rDatL
  | rCfgB
  | rWait2
  | rStat2
  | rDatB
  | wCfgL
  | wWait1
  | wStat1
  | wDatL
  | wCfgB
  | wWait2
  | wStat2
  | wData
  | wWait3
  | wStat3
  | xOff
  deriving DecidableEq, Repr

/-- The six poll sites of R138: the handshake of INIT, READ steps 2 and 5, WRITE steps 2, 5 and 7. -/
inductive PollSite
  | init
  | read2
  | read5
  | write2
  | write5
  | write7
  deriving DecidableEq, Repr

/-- One answer of the transport (R51): failure, or the bytes of the response. -/
inductive Answer
  | fail
  | ok (bytes : List Byte)
  deriving DecidableEq, Repr

/-- The machine. -/
structure State where
  /-- The power state (R29). -/
  pwr : Power
  /-- Retry budget remaining of the power-on handshake (R22). -/
  budget : Nat
  /-- The sequencer's phase (R23). -/
  seq : Phase
  /-- Attempts remaining in the poll in progress inside READ or WRITE (R25). -/
  cnt : Nat
  /-- The value last decoded from a length register (R26). -/
  len : U32
  /-- The payload of the WRITE in progress (R20, R21). -/
  buf : List Byte
  /-- Input: what the host presents at the command port, next first. Outside the block (R91; log 5). -/
  port : List PortWord
  /-- Input: the transport's next answers, next first. Outside the block (R52; log 2). -/
  answers : List Answer
  /-- Input: samples of the reset input, one a step, next first; none left means not asserted (R220; log 6). -/
  resetIn : List Bool
  /-- The record of exchanges, delays and responses, oldest first (R13; log 4). -/
  trace : List Event
  deriving DecidableEq, Repr

/-- The block has no fault state other than `pwr = Failed`, which is a state (93_implementation_defined.md Part 1): nobody
raises a fault (log 18). -/
inductive Fault
  deriving DecidableEq, Repr

/-- Why the model gives no next state. -/
inductive Refusal
  /-- Raised by `exec` for an instruction that has no meaning yet. Safe. -/
  | notModelled (mnemonic : String)
  /-- Raised by the meaning of a frame or of POLL in a phase whose step is not that one: the block issues nothing else
  (R24, R34, R50; 93_implementation_defined.md U3 "refuse"). `step` never raises it. Safe (log 8). -/
  | notEnabled (mnemonic : String)
  /-- Raised by `step` for a port word whose payload is longer than the command port's operand can be (R91). Safe
  (log 12). -/
  | malformedCommand
  deriving DecidableEq, Repr

/-- The state after reset (R220): every element at the value the rule gives; no input, nothing recorded. -/
def State.reset : State where
  pwr := .off
  budget := Config.params.pwrAttempts
  seq := .idle
  cnt := 0
  len := 0#32
  buf := []
  port := []
  answers := []
  resetIn := []
  trace := []

end Sys2Proof.Machine
end

