-- ==== Sys2Proof/Machine/Operands.lean ====
section
/-! DEFINITION. Values taken from responses (30_encoding.md R87, R89), and the numeric codes of R23, R29 and R92. -/

namespace Sys2Proof.Machine

/-- Byte `i` of a response. A response has the length of its frame (R50), so the block's own steps read only bytes that are
there; for the rest the value is free (log 11). -/
def byteAt (inn : List Byte) (i : Nat) : Byte := inn.getD i (Config.missingByte i)

/-- The status byte, `in[1]` (R131). -/
def statusByte (inn : List Byte) : Byte := byteAt inn 1

/-- `unle32(in[1..4])`, the value of a length register (R26, R87). -/
def lengthField (inn : List Byte) : U32 := unle32 (byteAt inn 1) (byteAt inn 2) (byteAt inn 3) (byteAt inn 4)

/-- `in[1..n]`, the data of a data-read (R83, R87). -/
def dataField (count : U32) (inn : List Byte) : List Byte := (inn.drop 1).take count.toNat

/-- `len(buf)` as the u32 operand of the config-write (R143 step 4). -/
def bufLength (s : State) : U32 := BitVec.ofNat 32 s.buf.length

/-- The code of a power state (R29). -/
def powerCode : Power → Nat
  | .off => 0
  | .poweringOn => 1
  | .on => 2
  | .failed => 3

/-- The code of a phase (R23). -/
def phaseCode : Phase → Nat
  | .idle => 0
  | .pOn => 1
  | .pWait => 2
  | .pStat => 3
  | .rCfgL => 4
  | .rWait1 => 5
  | .rStat1 => 6
  | .rDatL => 7
  | .rCfgB => 8
  | .rWait2 => 9
  | .rStat2 => 10
  | .rDatB => 11
  | .wCfgL => 12
  | .wWait1 => 13
  | .wStat1 => 14
  | .wDatL => 15
  | .wCfgB => 16
  | .wWait2 => 17
  | .wStat2 => 18
  | .wData => 19
  | .wWait3 => 20
  | .wStat3 => 21
  | .xOff => 22

/-- The code of a response (R92). -/
def respCode : RespCode → Nat
  | .ok => 0
  | .notReady => 1
  | .pollTimeout => 2
  | .insufficientSpace => 3
  | .invalidArgument => 4
  | .powerOnTimeout => 5
  | .busUnavailable => 6
  | .badState => 7

/-- The code of a detail (R92). -/
def detailCode : Detail → Nat
  | .none => 0
  | .noData => 1
  | .notReadyLen => 2
  | .notReadyBuf => 3

end Sys2Proof.Machine
end

