-- ==== Sys2Proof/Machine/Flags.lean ====
section
/-! DEFINITION. The one flag computation of the block: the test of a status byte against a mask (41_status_poller.md R132,
R133). No state element holds a flag (10_state.md R28). -/

namespace Sys2Proof.Machine

/-- An attempt's test: the sentinel 0xFF never hits (R132), any other status hits if it has any bit of the mask (R133). -/
def hit (status mask : Byte) : Bool := status != 0xFF#8 && (status &&& mask) != 0x00#8

end Sys2Proof.Machine
end

