-- ==== Sys2Proof/Machine/Ops.lean ====
section
/-! DEFINITION. The primitives of 00_scope.md R11 over the state: the exchange, the delay, the response; what an error does
(60_exceptions.md R191), the end of a Session, the reset input, the command port. -/

namespace Sys2Proof.Machine

/-! ### Exchange (R50 to R52) -/

/-- The oracle's free outcome: failure, or a response of the frame's own length. -/
def freeAnswer (history : List Event) (out : List Byte) : Option (List Byte) :=
  (Config.transport history out).map fun at' => (List.range out.length).map at'

/-- The outcome of the exchange of `out` in state `s`: `none` is failure. A scripted answer of another length than the
frame's is no answer (R51; log 3); then, and when the script is used up, the outcome is free (log 2). -/
def answerFor (out : List Byte) (s : State) : Option (List Byte) :=
  match s.answers with
  | .fail :: _ => none
  | .ok bytes :: _ => if bytes.length = out.length then some bytes else freeAnswer s.trace out
  | [] => freeAnswer s.trace out

/-- The exchange is made: recorded, its scripted answer used up. -/
def afterExchange (out : List Byte) (s : State) : State :=
  { s with answers := s.answers.tail, trace := s.trace ++ [.exchange out (answerFor out s)] }

/-- `in <- Exchange(out)` and what follows it, with the `on BusFail` clause. It always completes (R52; log 16). -/
def exchange (out : List Byte) (onFail : State → State) (onOk : List Byte → State → State) (s : State) : State :=
  match answerFor out s with
  | none => onFail (afterExchange out s)
  | some inn => onOk inn (afterExchange out s)

/-! ### Delay (R135) -/

/-- `Delay(ATTEMPT_INTERVAL)`: nothing but the event (log 10). -/
def delay (P : Params) (s : State) : State := { s with trace := s.trace ++ [.delay P.attemptInterval] }

/-! ### Responses and errors -/

/-- `Respond(code, data, detail)` (R92): one response; the sequencer idle and the scratch registers cleared (R27). -/
def respond (code : RespCode) (data : List Byte) (detail : Detail) (s : State) : State :=
  { s with seq := .idle, cnt := 0, len := 0#32, buf := [], trace := s.trace ++ [.response code data detail] }

/-- The errors that are fatal to the Session (R191(c), R192). -/
def fatal : RespCode → Bool
  | .powerOnTimeout => true
  | .busUnavailable => true
  | _ => false

/-- What an error does (R191), the block's form of taking an exception: `pwr <- Failed` for the fatal ones, then the
response with the code, empty data and detail 0. Nothing is saved and nothing is vectored. -/
def takeError (code : RespCode) (s : State) : State :=
  respond code [] .none { s with pwr := if fatal code then .failed else s.pwr }

/-- The `on BusFail` clause of INIT, READ and WRITE (R164). -/
def busFail (s : State) : State := takeError .busUnavailable s

/-- The end of the Session (R162, R35), the only way back from a fatal error but reset (R192): the mode and the budget of a
new Session, and the response. -/
def endSession (P : Params) (code : RespCode) (s : State) : State :=
  respond code [] .none { s with pwr := .off, budget := P.pwrAttempts }

/-! ### Reset (R220, R221) -/

/-- The sample of the reset input that this step reads is used up. -/
def tick (s : State) : State := { s with resetIn := s.resetIn.tail }

/-- The reset input is asserted: every element of the block at its reset value, no exchange and no response (R221). What is
outside the block stays as it is: the commands that the host presents and has not seen accepted, the transport's answers, the
record. The spec speaks only of a command in progress. DESIGN CHOICE (log 20). -/
def assertReset (P : Params) (s : State) : State :=
  { s with pwr := .off, budget := P.pwrAttempts, seq := .idle, cnt := 0, len := 0#32, buf := [] }

/-! ### The command port (R91) -/

/-- The command at the head of the port is taken. -/
def takeCommand (s : State) : State := { s with port := s.port.tail }

/-- A command is accepted only at `IDLE`. Otherwise it is not taken: the host still presents it (R91; log 9). -/
def acceptAtIdle (word : PortWord) (accept : State → State) (s : State) : State :=
  if s.seq = .idle then accept s else { s with port := word :: s.port }

end Sys2Proof.Machine
end

