-- ==== Sys2Proof/Machine/Poller.lean ====
section
/-! DEFINITION. The status poller (41_status_poller.md): the poll sites of R138, one attempt, and POLL (R130). -/

namespace Sys2Proof.Machine

/-! ### The poll sites (R138) -/

/-- The mask a site tests. -/
def siteFlag (P : Params) : PollSite → Byte
  | .init => P.flagSlaveOn
  | .read2 | .read5 | .write2 | .write5 => P.flagFifoReady
  | .write7 => P.flagRdwrFinished

/-- The delay phase of a site. -/
def siteWait : PollSite → Phase
  | .init => .pWait
  | .read2 => .rWait1
  | .read5 => .rWait2
  | .write2 => .wWait1
  | .write5 => .wWait2
  | .write7 => .wWait3

/-- The status phase of a site. -/
def siteStat : PollSite → Phase
  | .init => .pStat
  | .read2 => .rStat1
  | .read5 => .rStat2
  | .write2 => .wStat1
  | .write5 => .wStat2
  | .write7 => .wStat3

/-- The site whose delay phase this is. -/
def siteOfWait : Phase → Option PollSite
  | .pWait => some .init
  | .rWait1 => some .read2
  | .rWait2 => some .read5
  | .wWait1 => some .write2
  | .wWait2 => some .write5
  | .wWait3 => some .write7
  | _ => none

/-- The site whose status phase this is. -/
def siteOfStat : Phase → Option PollSite
  | .pStat => some .init
  | .rStat1 => some .read2
  | .rStat2 => some .read5
  | .wStat1 => some .write2
  | .wStat2 => some .write5
  | .wStat3 => some .write7
  | _ => none

/-- Attempts remaining: the handshake counts in `budget`, every other poll in `cnt` (R25, R138). -/
def remaining : PollSite → State → Nat
  | .init, s => s.budget
  | _, s => s.cnt

/-- The attempts a site's poll starts with (R138): the handshake takes the budget as it finds it. -/
def siteAttempts (P : Params) : PollSite → State → Nat
  | .init, s => s.budget
  | .write7, _ => P.finAttempts
  | _, _ => P.fifoAttempts

/-- `cnt <- n`, in the site's counter. With any n but R138's, which only POLL executed by itself has, this may raise the
counter: at the INIT site `budget`, which R22 and R199 let only reset and RELEASE restore. DESIGN CHOICE (log 19). -/
def loadCounter : PollSite → Nat → State → State
  | .init, n, s => { s with budget := n }
  | _, n, s => { s with cnt := n }

/-- `cnt <- cnt - 1`, in the site's counter. -/
def spendAttempt : PollSite → State → State
  | .init, s => { s with budget := s.budget - 1 }
  | _, s => { s with cnt := s.cnt - 1 }

/-- What the command does on `Success` (R138). -/
def onSuccess : PollSite → State → State
  | .init, s => respond .ok [] .none { s with pwr := .on }
  | .read2, s => { s with seq := .rDatL }
  | .read5, s => { s with seq := .rDatB }
  | .write2, s => { s with seq := .wDatL }
  | .write5, s => { s with seq := .wData }
  | .write7, s => respond .ok [] .none s

/-- What the command does on `Timeout` (R138, R193). -/
def onTimeout : PollSite → State → State
  | .init, s => takeError .powerOnTimeout s
  | .read2, s => respond .ok [] .notReadyLen s
  | .read5, s => respond .ok [] .notReadyBuf s
  | .write2, s => takeError .pollTimeout s
  | .write5, s => takeError .pollTimeout s
  | .write7, s => takeError .pollTimeout s

/-- The loop's head (R130, R161): another attempt if any remains, else the timeout. In states that no
run reaches it follows the pseudocode (DEDUCED, safe: log 13). -/
def nextAttempt (site : PollSite) (s : State) : State :=
  if remaining site s = 0 then onTimeout site s else { s with seq := siteWait site }

/-- A command enters the poll of a site: the counter loaded, then the loop's head. -/
def beginPoll (P : Params) (site : PollSite) (s : State) : State :=
  nextAttempt site (loadCounter site (siteAttempts P site s) s)

/-- The delay of an attempt (R135), and on to its status read. -/
def delayStep (P : Params) (site : PollSite) (s : State) : State := { delay P s with seq := siteStat site }

/-- The status read of an attempt: decrement, exchange, test (R130, R161, R24). -/
def statusAttempt (P : Params) (site : PollSite) (s : State) : State :=
  exchange (encStatusRead P) busFail
    (fun inn t => if hit (statusByte inn) (siteFlag P site) then onSuccess site t else nextAttempt site t)
    (spendAttempt site s)

/-! ### STATUS_READ -/

/-- STATUS_READ for a parameter set: enabled in the six status phases. -/
def statusReadWith (P : Params) (s : State) : Host.Outcome State Fault Refusal :=
  match siteOfStat s.seq with
  | some site => .next (statusAttempt P site s)
  | none => .refused (.notEnabled "STATUS_READ")

/-- STATUS_READ (R111, R130, R161). -/
def execStatusRead (s : State) : Host.Outcome State Fault Refusal := statusReadWith Config.params s

/-! ### POLL -/

/-- How a poll ends (R130, R136). `success k` is the attempt's number. -/
inductive PollValue
  | success (attempt : Nat)
  | timeout
  | busFailed
  deriving DecidableEq, Repr

/-- The loop of R130 with `n` attempts remaining after `done` made, counting in the site's counter. -/
def pollLoop (P : Params) (site : PollSite) (flag : Byte) (done : Nat) : Nat → State → PollValue × State
  | 0, s => (.timeout, s)
  | n + 1, s =>
    let attempt := spendAttempt site (delay P s)
    let after := afterExchange (encStatusRead P) attempt
    match answerFor (encStatusRead P) attempt with
    | none => (.busFailed, after)
    | some inn =>
      if hit (statusByte inn) flag then (.success (done + 1), after) else pollLoop P site flag (done + 1) n after

/-- `Poll(flag, n)` of R130, counting in the site's counter, which it loads with n whatever n is (R138 gives one n a site).
DESIGN CHOICE (log 14, log 19). -/
def poll (P : Params) (site : PollSite) (flag : Byte) (n : Nat) (s : State) : PollValue × State :=
  pollLoop P site flag 0 n (loadCounter site n s)

/-- The value of a poll handed to the command that called it (R136, R138). -/
def concludePoll (site : PollSite) : PollValue × State → State
  | (.success _, s) => onSuccess site s
  | (.timeout, s) => onTimeout site s
  | (.busFailed, s) => busFail s

/-- POLL for a parameter set: enabled where a command enters or repeats a poll, in the six delay phases. -/
def pollWith (P : Params) (flag : Byte) (n : Nat) (s : State) : Host.Outcome State Fault Refusal :=
  match siteOfWait s.seq with
  | some site => .next (concludePoll site (poll P site flag n s))
  | none => .refused (.notEnabled "POLL")

/-- POLL (R130), whole: the composite of R94, its value handed to the site it stands at (log 14), for any mask
and any n (log 19). `step` never executes it. -/
def execPoll (flag : Byte) (n : Nat) (s : State) : Host.Outcome State Fault Refusal := pollWith Config.params flag n s

end Sys2Proof.Machine
end

