-- ==== Sys2Proof/Machine/Frames.lean ====
section
/-! DEFINITION. The other bus frames as the sequencer runs them: config, data and power frames (40_frame_encoder.md R112 to
R117, with the transitions of 10_state.md R24 after each). A frame is enabled in the phases that issue its kind; its
operands are the frame's own (log 7). -/

namespace Sys2Proof.Machine

/-! ### Config frames -/

/-- The poll that follows a config-read (R24). -/
def siteAfterConfigRead : Phase → Option PollSite
  | .rCfgL => some .read2
  | .rCfgB => some .read5
  | .wCfgL => some .write2
  | _ => none

/-- The poll that follows a config-write (R24). -/
def siteAfterConfigWrite : Phase → Option PollSite
  | .wCfgB => some .write5
  | _ => none

/-- A config frame on the bus, its response ignored (R82), then its poll. A frame that cannot be built is the error
`InvalidArgument` (R110, R184) and nothing on the bus. -/
def configPhase (P : Params) (site : PollSite) (frame : Except FrameError (List Byte)) (s : State) : State :=
  match frame with
  | .error .invalidArgument => takeError .invalidArgument s
  | .ok out => exchange out busFail (fun _ => beginPoll P site) s

/-- CONFIG_READ for a parameter set. -/
def configReadWith (P : Params) (a l : U32) (s : State) : Host.Outcome State Fault Refusal :=
  match siteAfterConfigRead s.seq with
  | some site => .next (configPhase P site (encConfigRead P a l) s)
  | none => .refused (.notEnabled "CONFIG_READ")

/-- CONFIG_READ (R112): READ steps 1 and 4, WRITE step 1. -/
def execConfigRead (a l : U32) (s : State) : Host.Outcome State Fault Refusal := configReadWith Config.params a l s

/-- CONFIG_WRITE for a parameter set. -/
def configWriteWith (P : Params) (a l : U32) (s : State) : Host.Outcome State Fault Refusal :=
  match siteAfterConfigWrite s.seq with
  | some site => .next (configPhase P site (encConfigWrite P a l) s)
  | none => .refused (.notEnabled "CONFIG_WRITE")

/-- CONFIG_WRITE (R113): WRITE step 4. -/
def execConfigWrite (a l : U32) (s : State) : Host.Outcome State Fault Refusal := configWriteWith Config.params a l s

/-! ### Data frames -/

/-- READ step 3 (R141): `available`, and the end of the command when it is 0. -/
def takeAvailable (inn : List Byte) (s : State) : State :=
  if lengthField inn = 0#32 then respond .ok [] .noData { s with len := lengthField inn }
  else { s with len := lengthField inn, seq := .rCfgB }

/-- WRITE step 3 (R143): `free_space`, and the end of the command when the payload does not fit. Unsigned (R144(c)). -/
def takeFreeSpace (inn : List Byte) (s : State) : State :=
  if (lengthField inn).toNat < s.buf.length then takeError .insufficientSpace { s with len := lengthField inn }
  else { s with len := lengthField inn, seq := .wCfgB }

/-- DATA_READ for a parameter set. -/
def dataReadWith (P : Params) (n : U32) (s : State) : Host.Outcome State Fault Refusal :=
  match s.seq with
  | .rDatL => .next (exchange (encDataRead P n) busFail takeAvailable s)
  | .wDatL => .next (exchange (encDataRead P n) busFail takeFreeSpace s)
  | .rDatB => .next (exchange (encDataRead P n) busFail (fun inn => respond .ok (dataField n inn) .none) s)
  | _ => .refused (.notEnabled "DATA_READ")

/-- DATA_READ (R114): READ steps 3 and 6, WRITE step 3. -/
def execDataRead (n : U32) (s : State) : Host.Outcome State Fault Refusal := dataReadWith Config.params n s

/-- DATA_WRITE for a parameter set. -/
def dataWriteWith (P : Params) (p : List Byte) (s : State) : Host.Outcome State Fault Refusal :=
  match s.seq with
  | .wData => .next (exchange (encDataWrite P p) busFail (fun _ => beginPoll P .write7) s)
  | _ => .refused (.notEnabled "DATA_WRITE")

/-- DATA_WRITE (R115): WRITE step 6. -/
def execDataWrite (p : List Byte) (s : State) : Host.Outcome State Fault Refusal := dataWriteWith Config.params p s

/-! ### Power frames -/

/-- POWER_ON for a parameter set. -/
def powerOnWith (P : Params) (s : State) : Host.Outcome State Fault Refusal :=
  match s.seq with
  | .pOn => .next (exchange (encPowerOn P) busFail (fun _ => beginPoll P .init) s)
  | _ => .refused (.notEnabled "POWER_ON")

/-- POWER_ON (R116): INIT, once (R165(a)). -/
def execPowerOn (s : State) : Host.Outcome State Fault Refusal := powerOnWith Config.params s

/-- POWER_OFF for a parameter set: the Session ends whether or not the exchange failed (R162). -/
def powerOffWith (P : Params) (s : State) : Host.Outcome State Fault Refusal :=
  match s.seq with
  | .xOff => .next (exchange (encPowerOff P) (endSession P .busUnavailable) (fun _ => endSession P .ok) s)
  | _ => .refused (.notEnabled "POWER_OFF")

/-- POWER_OFF (R117): RELEASE from `On`. -/
def execPowerOff (s : State) : Host.Outcome State Fault Refusal := powerOffWith Config.params s

end Sys2Proof.Machine
end

