-- ==== Sys2Proof/Machine/Session.lean ====
section
/-! DEFINITION. The acceptance of INIT and RELEASE (43_session_power.md R161, R162, R167). The exchanges and delays that
follow are steps of their own (00_scope.md R5). -/

namespace Sys2Proof.Machine

/-- INIT at `IDLE` (R24, R161, R167). -/
def acceptInit (s : State) : State :=
  if s.pwr = .off then { s with pwr := .poweringOn, seq := .pOn } else takeError .badState s

/-- INIT. -/
def execInit (s : State) : Host.Outcome State Fault Refusal := .next (acceptAtIdle ⟨0#2, []⟩ acceptInit s)

/-- RELEASE at `IDLE` (R24, R162). -/
def acceptRelease (P : Params) (s : State) : State :=
  if s.pwr = .on then { s with seq := .xOff } else endSession P .ok s

/-- RELEASE for a parameter set. -/
def releaseWith (P : Params) (s : State) : Host.Outcome State Fault Refusal :=
  .next (acceptAtIdle ⟨3#2, []⟩ (acceptRelease P) s)

/-- RELEASE. -/
def execRelease (s : State) : Host.Outcome State Fault Refusal := releaseWith Config.params s

end Sys2Proof.Machine
end

