-- ==== Sys2Proof/Machine/Transfer.lean ====
section
/-! DEFINITION. The acceptance of READ and WRITE (42_transfer_engine.md R141, R143; 43_session_power.md R166;
60_exceptions.md R190). The exchanges and delays that follow are steps of their own (00_scope.md R5). -/

namespace Sys2Proof.Machine

/-- READ at `IDLE` (R24, R141). -/
def acceptRead (s : State) : State :=
  if s.pwr = .on then { s with seq := .rCfgL } else takeError .notReady s

/-- READ. -/
def execRead (s : State) : Host.Outcome State Fault Refusal := .next (acceptAtIdle ⟨1#2, []⟩ acceptRead s)

/-- WRITE at `IDLE` (R24, R143), the power state checked before the payload (R190). -/
def acceptWrite (payload : List Byte) (s : State) : State :=
  if s.pwr = .on then
    if payload.length = 0 then takeError .invalidArgument s else { s with buf := payload, seq := .wCfgL }
  else takeError .notReady s

/-- WRITE. -/
def execWrite (payload : List Byte) (s : State) : Host.Outcome State Fault Refusal :=
  .next (acceptAtIdle ⟨2#2, payload⟩ (acceptWrite payload) s)

end Sys2Proof.Machine
end

