-- ==== Sys2Proof/Machine/Dispatch.lean ====
section
/-! DEFINITION. One arm per instruction. -/

namespace Sys2Proof.Machine

def exec (i : Instr) (s : State) : Host.Outcome State Fault Refusal :=
  match i with
  | .statusRead => Sys2Proof.Machine.execStatusRead s
  | .configRead a l => Sys2Proof.Machine.execConfigRead a l s
  | .configWrite a l => Sys2Proof.Machine.execConfigWrite a l s
  | .dataRead n => Sys2Proof.Machine.execDataRead n s
  | .dataWrite p => Sys2Proof.Machine.execDataWrite p s
  | .powerOn => Sys2Proof.Machine.execPowerOn s
  | .powerOff => Sys2Proof.Machine.execPowerOff s
  | .poll flag n => Sys2Proof.Machine.execPoll flag n s
  | .init => Sys2Proof.Machine.execInit s
  | .read => Sys2Proof.Machine.execRead s
  | .write p => Sys2Proof.Machine.execWrite p s
  | .release => Sys2Proof.Machine.execRelease s

end Sys2Proof.Machine
end

