-- ==== Sys2Proof/Machine/Sequencer.lean ====
section
/-! DEFINITION. What the block does next: the sequencer's phases (10_state.md R23, R24), the command port (30_encoding.md
R91), the reset input (70_reset_and_hazards.md R220); and how an instruction is placed where the next step runs it. -/

namespace Sys2Proof.Machine

/-- The frame a phase issues, with its operands (R24, R141, R143, R161, R162). -/
def phaseFrame (P : Params) (s : State) : Option Instr :=
  match s.seq with
  | .idle => none
  | .pOn => some .powerOn
  | .pWait => none
  | .pStat => some .statusRead
  | .rCfgL => some (.configRead (P.address .txLen) 4#32)
  | .rWait1 => none
  | .rStat1 => some .statusRead
  | .rDatL => some (.dataRead 4#32)
  | .rCfgB => some (.configRead (P.address .txBuf) s.len)
  | .rWait2 => none
  | .rStat2 => some .statusRead
  | .rDatB => some (.dataRead s.len)
  | .wCfgL => some (.configRead (P.address .rxLen) 4#32)
  | .wWait1 => none
  | .wStat1 => some .statusRead
  | .wDatL => some (.dataRead 4#32)
  | .wCfgB => some (.configWrite (P.address .rxBuf) (bufLength s))
  | .wWait2 => none
  | .wStat2 => some .statusRead
  | .wData => some (.dataWrite s.buf)
  | .wWait3 => none
  | .wStat3 => some .statusRead
  | .xOff => some .powerOff

/-- What the next step is. -/
inductive Fetched
  /-- The reset input is asserted. -/
  | reset
  /-- At `IDLE` with no command presented: the block waits (R220). -/
  | waitHost
  /-- The host presents what is no command (R91). -/
  | malformed
  /-- A command is accepted. -/
  | command (i : Instr)
  /-- A frame of the command in progress. -/
  | frame (i : Instr)
  /-- A delay. -/
  | wait (site : PollSite)
  deriving DecidableEq, Repr

/-- At `IDLE`: the word at the head of the port. -/
def fetchCommand (s : State) : Fetched :=
  match s.port with
  | [] => .waitHost
  | w :: _ =>
    match decodeCommand w with
    | .ok i => .command i
    | .error _ => .malformed

/-- The next step of a state: the reset input first, which may be asserted at any time (R220). -/
def fetch (P : Params) (s : State) : Fetched :=
  if s.resetIn.head? = some true then .reset
  else
    match siteOfWait s.seq with
    | some site => .wait site
    | none =>
      match phaseFrame P s with
      | some i => .frame i
      | none => fetchCommand s

/-! ### Placing an instruction -/

/-- A command presented at the port of an idle block. -/
def placeCommand (w : PortWord) (s : State) : State := { s with seq := .idle, port := w :: s.port }

/-- The phase that issues a config-read of these operands, with the register it takes the length from. -/
def placeConfigRead (P : Params) (a l : U32) (s : State) : State :=
  if a = P.address .txBuf then { s with seq := .rCfgB, len := l }
  else if a = P.address .txLen then { s with seq := .rCfgL }
  else { s with seq := .wCfgL }

/-- `s` with the instruction where the next step takes it: a command at the port, a frame in a phase of a READ, WRITE, INIT
or RELEASE that issues it, with the elements that phase takes the operands from. The sequencer issues a config frame only
to its own registers, so one to another address cannot be placed. -/
def place (P : Params) (i : Instr) (s : State) : State :=
  match i with
  | .statusRead => { s with pwr := .on, seq := .rStat1, cnt := P.fifoAttempts }
  | .configRead a l => placeConfigRead P a l { s with pwr := .on }
  | .configWrite _ l => { s with pwr := .on, seq := .wCfgB, buf := List.replicate l.toNat P.fill }
  | .dataRead n => { s with pwr := .on, seq := .rDatB, len := n }
  | .dataWrite p => { s with pwr := .on, seq := .wData, buf := p }
  | .powerOn => { s with pwr := .poweringOn, seq := .pOn }
  | .powerOff => { s with pwr := .on, seq := .xOff }
  | .poll _ _ => s
  | .init => placeCommand ⟨0#2, []⟩ s
  | .read => placeCommand ⟨1#2, []⟩ s
  | .write p => placeCommand ⟨2#2, p⟩ s
  | .release => placeCommand ⟨3#2, []⟩ s

end Sys2Proof.Machine
end

