-- ==== Sys2Proof/Machine/Step.lean ====
section
/-! DEFINITION. One step (00_scope.md R5), and where a word is placed so that the next step runs it. -/

namespace Sys2Proof.Machine

/-- One step: reset; or the acceptance of a command, one exchange, one delay, as the phase says; or waiting at `IDLE`. -/
def step (s : State) : Host.Outcome State Fault Refusal :=
  match fetch Config.params s with
  | .reset => .next (assertReset Config.params (tick s))
  | .waitHost => .next (tick s)
  | .malformed => .refused .malformedCommand
  | .command i => exec i (takeCommand (tick s))
  | .frame i => exec i (tick s)
  | .wait site => .next (delayStep Config.params site (tick s))

/-- `s` with the instruction of a table word where `step` takes its next one. The block loads no program (R65): this stands
for the host presenting a command, or for a command being at the phase that issues a frame (log 5, log 17). -/
def State.withFetchWord (s : State) (nbits w : Nat) : State :=
  match decodeTableWord nbits w with
  | some i => place Config.params i { s with resetIn := [] }
  | none => s

end Sys2Proof.Machine
end

