-- ==== Sys2Proof/Machine/Sequences.lean ====
section
/-! DEFINITION. The four commands as the whole sequences of the spec's pseudocode (R141, R143, R161, R162), from acceptance
to response. The machine runs them one exchange or one delay a step; claims compare its runs with these. -/

namespace Sys2Proof.Machine

/-- `Exchange(ENC_CONFIG_...(A, L))` and what follows; length 0 raises `InvalidArgument`. -/
def configThen (frame : Except FrameError (List Byte)) (next : State → State) (s : State) : State :=
  match frame with
  | .error .invalidArgument => takeError .invalidArgument s
  | .ok out => exchange out busFail (fun _ => next) s

/-- `if Poll(flag, n) = Timeout: ...` and what follows. -/
def pollThen (P : Params) (site : PollSite) (flag : Byte) (n : Nat) (timeout next : State → State) (s : State) : State :=
  match poll P site flag n s with
  | (.success _, t) => next t
  | (.timeout, t) => timeout t
  | (.busFailed, t) => busFail t

/-- INIT (R161). -/
def initSequence (P : Params) (s : State) : State :=
  if s.pwr = .off then
    exchange (encPowerOn P) busFail
      (fun _ t => pollThen P .init P.flagSlaveOn t.budget (takeError .powerOnTimeout)
        (fun u => respond .ok [] .none { u with pwr := .on }) t)
      { s with pwr := .poweringOn }
  else takeError .badState s

/-- READ (R141), from step 4 on with `available` in `n`. -/
def readBuffer (P : Params) (n : U32) (s : State) : State :=
  configThen (encConfigRead P (P.address .txBuf) n)
    (pollThen P .read5 P.flagFifoReady P.fifoAttempts (respond .ok [] .notReadyBuf)
      (exchange (encDataRead P n) busFail fun inn => respond .ok (dataField n inn) .none)) s

/-- READ (R141). -/
def readSequence (P : Params) (s : State) : State :=
  if s.pwr = .on then
    configThen (encConfigRead P (P.address .txLen) 4#32)
      (pollThen P .read2 P.flagFifoReady P.fifoAttempts (respond .ok [] .notReadyLen)
        (exchange (encDataRead P 4#32) busFail fun inn t =>
          if lengthField inn = 0#32 then respond .ok [] .noData t else readBuffer P (lengthField inn) t)) s
  else takeError .notReady s

/-- WRITE (R143), from step 4 on. -/
def writeBuffer (P : Params) (payload : List Byte) (s : State) : State :=
  configThen (encConfigWrite P (P.address .rxBuf) (BitVec.ofNat 32 payload.length))
    (pollThen P .write5 P.flagFifoReady P.fifoAttempts (takeError .pollTimeout)
      (exchange (encDataWrite P payload) busFail fun _ =>
        pollThen P .write7 P.flagRdwrFinished P.finAttempts (takeError .pollTimeout) (respond .ok [] .none))) s

/-- WRITE (R143). -/
def writeSequence (P : Params) (payload : List Byte) (s : State) : State :=
  if s.pwr = .on then
    if payload.length = 0 then takeError .invalidArgument s
    else
      configThen (encConfigRead P (P.address .rxLen) 4#32)
        (pollThen P .write2 P.flagFifoReady P.fifoAttempts (takeError .pollTimeout)
          (exchange (encDataRead P 4#32) busFail fun inn t =>
            if (lengthField inn).toNat < payload.length then takeError .insufficientSpace t
            else writeBuffer P payload t)) s
  else takeError .notReady s

/-- RELEASE (R162). -/
def releaseSequence (P : Params) (s : State) : State :=
  if s.pwr = .on then exchange (encPowerOff P) (endSession P .busUnavailable) (fun _ => endSession P .ok) s
  else endSession P .ok s

/-- The whole sequence of an instruction that is a command. -/
def commandSequence (P : Params) : Instr → Option (State → State)
  | .init => some (initSequence P)
  | .read => some (readSequence P)
  | .write payload => some (writeSequence P payload)
  | .release => some (releaseSequence P)
  | .statusRead | .configRead _ _ | .configWrite _ _ | .dataRead _ | .dataWrite _ | .powerOn | .powerOff | .poll _ _ => none

end Sys2Proof.Machine
end

