-- ==== Sys2Proof/Safety.lean ====
section
/-! DEFINITION. What claims speak of: the legal states of the block, what a safe history of the bus is, and counts over a
history. -/

namespace Sys2Proof.Machine

/-! ### Legal states -/

/-- The power states a phase can be in (R29, R24): no command is in progress in `Off` or `Failed`, and `PoweringOn` is held
only by the handshake. -/
def modeFits : Phase → Power → Bool
  | .idle, p => p != .poweringOn
  | .pOn, p | .pWait, p | .pStat, p => p == .poweringOn
  | .rCfgL, p | .rWait1, p | .rStat1, p | .rDatL, p | .rCfgB, p | .rWait2, p | .rStat2, p | .rDatB, p => p == .on
  | .wCfgL, p | .wWait1, p | .wStat1, p | .wDatL, p | .wCfgB, p | .wWait2, p | .wStat2, p | .wData, p => p == .on
  | .wWait3, p | .wStat3, p | .xOff, p => p == .on

/-- The phases of a WRITE. -/
def inWrite : Phase → Bool
  | .wCfgL | .wWait1 | .wStat1 | .wDatL | .wCfgB | .wWait2 | .wStat2 | .wData | .wWait3 | .wStat3 => true
  | _ => false

/-- The phases of a READ after `available` was found not 0. -/
def afterAvailable : Phase → Bool
  | .rCfgB | .rWait2 | .rStat2 | .rDatB => true
  | _ => false

/-- The phases of a WRITE after the payload was found to fit. -/
def afterFreeSpace : Phase → Bool
  | .wCfgB | .wWait2 | .wStat2 | .wData | .wWait3 | .wStat3 => true
  | _ => false

/-- The poll a phase is an attempt of. -/
def siteOf (p : Phase) : Option PollSite := (siteOfWait p).or (siteOfStat p)

/-- The states of the block that its rules keep to. -/
structure Inv (P : Params) (s : State) : Prop where
  /-- R20, R22. -/
  budget_le : s.budget ≤ P.pwrAttempts
  /-- R22: "whenever `pwr = Off`, `budget = PWR_ATTEMPTS`". -/
  budget_off : s.pwr = .off → s.budget = P.pwrAttempts
  /-- The power-on frame goes out with the whole budget (R161, R165). -/
  budget_on : s.seq = .pOn → s.budget = P.pwrAttempts
  /-- R20. -/
  cnt_le : s.cnt ≤ max P.fifoAttempts P.finAttempts
  /-- An attempt in progress has an attempt to spend (R130, R161). -/
  attempts : ∀ site, siteOf s.seq = some site → 1 ≤ remaining site s
  /-- R29. -/
  mode : modeFits s.seq s.pwr = true
  /-- R27. -/
  idle_clear : s.seq = .idle → s.cnt = 0
  /-- `buf` holds the payload of the WRITE in progress, never empty, and nothing otherwise (R20, R27, R144(a)). -/
  buf_fits : if inWrite s.seq then 1 ≤ s.buf.length ∧ s.buf.length < 2 ^ 32 else s.buf = []
  /-- `len` is what the command read from the length register: `available` not 0 (R142(a)), `free_space` enough for the
  payload (R143), and nothing before it was read (R26, R27). -/
  len_fits : if afterAvailable s.seq then s.len ≠ 0#32 else if afterFreeSpace s.seq then s.buf.length ≤ s.len.toNat
    else s.len = 0#32

/-! ### Which instruction a phase is for -/

/-- The table's mnemonic of an instruction. -/
def mnemonicOf : Instr → String
  | .statusRead => "STATUS_READ"
  | .configRead _ _ => "CONFIG_READ"
  | .configWrite _ _ => "CONFIG_WRITE"
  | .dataRead _ => "DATA_READ"
  | .dataWrite _ => "DATA_WRITE"
  | .powerOn => "POWER_ON"
  | .powerOff => "POWER_OFF"
  | .poll _ _ => "POLL"
  | .init => "INIT"
  | .read => "READ"
  | .write _ => "WRITE"
  | .release => "RELEASE"

/-- The phases in which the block issues a frame of this kind or stands at a poll (R24); a command is always either accepted
or left at the port (R91). -/
def enabled : Instr → Phase → Bool
  | .statusRead, p => (siteOfStat p).isSome
  | .configRead _ _, p => p == .rCfgL || p == .rCfgB || p == .wCfgL
  | .configWrite _ _, p => p == .wCfgB
  | .dataRead _, p => p == .rDatL || p == .wDatL || p == .rDatB
  | .dataWrite _, p => p == .wData
  | .powerOn, p => p == .pOn
  | .powerOff, p => p == .xOff
  | .poll _ _, p => (siteOfWait p).isSome
  | .init, _ | .read, _ | .write _, _ | .release, _ => true

/-- The positions of a response that the block reads (R89). -/
def readsPosition : Instr → Nat → Prop
  | .statusRead, k => k = 1
  | .dataRead n, k => 1 ≤ k ∧ k ≤ n.toNat
  | _, _ => False

/-! ### Safe histories -/

/-- The frame a recorded exchange put on the bus was of this opcode (R88). -/
def isFrame (P : Params) (op : Opcode) (out : List Byte) : Prop := out.head? = some (P.opcode op)

/-- Every status-read exchange comes directly after a delay (R135, R224). -/
def StatusReadsDelayed (P : Params) (trace : List Event) : Prop :=
  ∀ before out answer after, trace = before ++ .exchange out answer :: after → isFrame P .statusRead out →
    before.getLast? = some (.delay P.attemptInterval)

/-- The history up to a state, and the delay the state stands behind when its next step is a status read. -/
def TurnaroundKept (P : Params) (s : State) : Prop :=
  StatusReadsDelayed P s.trace ∧
    ∀ site, siteOfStat s.seq = some site → s.trace.getLast? = some (.delay P.attemptInterval)

/-- The length a history has announced and not yet used: that of its last config frame, with only delays and status reads
after it (R86, R229). -/
def announceStep (P : Params) (pending : Option Nat) : Event → Option Nat
  | .delay _ => pending
  | .response _ _ _ => none
  | .exchange out _ =>
    match decodeFrame P out with
    | .ok (.configRead _ l) => some l
    | .ok (.configWrite _ l) => some l
    | .ok .statusRead => pending
    | _ => none

/-- The length announced at the end of a history. -/
def announced (P : Params) (trace : List Event) : Option Nat := trace.foldl (announceStep P) none

/-- The history ends with a status read that saw FIFO-ready (R66(a), R229). -/
def ReadyJustSeen (P : Params) (trace : List Event) : Prop :=
  ∃ inn, trace.getLast? = some (.exchange (encStatusRead P) (some inn)) ∧ hit (statusByte inn) P.flagFifoReady = true

/-- Every data frame moves exactly the bytes announced, directly after FIFO-ready was seen (R229). -/
def DataFramesGated (P : Params) (trace : List Event) : Prop :=
  ∀ before out answer after, trace = before ++ .exchange out answer :: after →
    (isFrame P .dataRead out ∨ isFrame P .dataWrite out) →
    announced P before = some (out.length - 1) ∧ ReadyJustSeen P before

/-- The length that must stand announced in a phase. -/
def announcedIn (s : State) : Option Nat :=
  match s.seq with
  | .rWait1 | .rStat1 | .rDatL | .wWait1 | .wStat1 | .wDatL => some 4
  | .rWait2 | .rStat2 | .rDatB => some s.len.toNat
  | .wWait2 | .wStat2 | .wData => some s.buf.length
  | _ => none

/-- The phases that issue a data frame. -/
def issuesData : Phase → Bool
  | .rDatL | .rDatB | .wDatL | .wData => true
  | _ => false

/-- The history up to a state, and what it must have announced and seen for the state's phase. -/
def FlowControlled (P : Params) (s : State) : Prop :=
  DataFramesGated P s.trace ∧
    (∀ n, announcedIn s = some n → announced P s.trace = some n) ∧
    (issuesData s.seq = true → ReadyJustSeen P s.trace)

/-! ### Counts -/

/-- The exchanges of a history. -/
def exchangeCount (trace : List Event) : Nat :=
  trace.countP fun e => match e with | .exchange _ _ => true | _ => false

/-- The delays of a history. -/
def delayCount (trace : List Event) : Nat :=
  trace.countP fun e => match e with | .delay _ => true | _ => false

/-- The data-write frames of a history, oldest first. -/
def dataWrites (P : Params) (trace : List Event) : List Event :=
  trace.filter fun e => match e with | .exchange out _ => out.head? == some (P.opcode .dataWrite) | _ => false

/-- The exchanges of status reads with these two-byte responses, as the transport's answers. -/
def statusAnswers (replies : List (Byte × Byte)) : List Answer := replies.map fun r => .ok [r.1, r.2]

/-- The responses of a history, oldest first. -/
def responses (trace : List Event) : List (RespCode × List Byte × Detail) :=
  trace.filterMap fun e => match e with | .response c d x => some (c, d, x) | _ => none

/-- `k` steps of the machine. -/
abbrev run (k : Nat) (s : State) : Host.Outcome State Fault Refusal := Sys2Proof.core.run k s

end Sys2Proof.Machine
end

