-- ==== Sys2Proof/Certificates/Slice0/Obligations.lean ====
section
/-! DEFINITION. The statements for the provers. Where a statement speaks of `exec` or `step` it speaks of the one machine,
with the free parameters `Config.params`; where it speaks of an encoder, a poll or a whole sequence it holds for every
parameter set. A record `{ s with ... }` as the next state says what changes and that nothing else does. -/

open Sys2Proof Sys2Proof.Machine

/-! ## Encoding -/

/-- The byte split and sum of R10. That they undo each other is marked there as the spec's derivation. -/
def Obligations.LittleEndianRoundTrip : Prop :=
  (∀ v : U32, ∃ b0 b1 b2 b3 : Byte, le32 v = [b0, b1, b2, b3] ∧ b0.toNat = v.toNat % 256 ∧
    b1.toNat = v.toNat / 256 % 256 ∧ b2.toNat = v.toNat / 65536 % 256 ∧ b3.toNat = v.toNat / 16777216 ∧
    unle32 b0 b1 b2 b3 = v) ∧
  (∀ b0 b1 b2 b3 : Byte,
    (unle32 b0 b1 b2 b3).toNat = b0.toNat + 256 * b1.toNat + 65536 * b2.toNat + 16777216 * b3.toNat ∧
    le32 (unle32 b0 b1 b2 b3) = [b0, b1, b2, b3])

/-- R111 to R117: the seven constructors. -/
def Obligations.FrameConstructors : Prop :=
  ∀ P : Params,
    encStatusRead P = [P.opcStatusRead, P.fill] ∧
    (∀ a l, encConfigRead P a l =
      if l = 0#32 then .error .invalidArgument else .ok ([P.opcConfigRead] ++ le32 a ++ le32 (l - 1#32))) ∧
    (∀ a l, encConfigWrite P a l =
      if l = 0#32 then .error .invalidArgument else .ok ([P.opcConfigWrite] ++ le32 a ++ le32 (l - 1#32))) ∧
    (∀ n, encDataRead P n = [P.opcDataRead] ++ List.replicate n.toNat P.fill) ∧
    (∀ p, encDataWrite P p = [P.opcDataWrite] ++ p) ∧
    encPowerOn P = [P.opcPowerOn] ∧ encPowerOff P = [P.opcPowerOff]

/-- The source's first testable property, R119, which the spec marks as derived from R112, R113 and R10. -/
def Obligations.ConfigFramesRoundTrip : Prop :=
  ∀ (P : Params) (a l : U32), l ≠ 0#32 →
    (∃ a0 a1 a2 a3 m0 m1 m2 m3, encConfigRead P a l = .ok [P.opcConfigRead, a0, a1, a2, a3, m0, m1, m2, m3] ∧
      unle32 a0 a1 a2 a3 = a ∧ (unle32 m0 m1 m2 m3).toNat = l.toNat - 1) ∧
    (∃ a0 a1 a2 a3 m0 m1 m2 m3, encConfigWrite P a l = .ok [P.opcConfigWrite, a0, a1, a2, a3, m0, m1, m2, m3] ∧
      unle32 a0 a1 a2 a3 = a ∧ (unle32 m0 m1 m2 m3).toNat = l.toNat - 1)

/-- R95's last sentence, marked there as derived, and the same of the command port (R91): no field is dropped. -/
def Obligations.DecodeInvertsEncode : Prop :=
  ∀ (P : Params) (i : Instr) (w : Encoded), i.wf = true → encode P i = some w → decode P w = .ok i

/-- Whatever decodes to an instruction has operands in the spec's domains, and a frame decodes to one exactly when its
lengths are u32 (R112 to R114, R118; that a longer frame has no instruction is log 12). -/
def Obligations.DecodedIsWellFormed : Prop :=
  (∀ (P : Params) (w : Encoded) (i : Instr), decode P w = .ok i → i.wf = true) ∧
  (∀ (P : Params) (f : List Byte) (b : BusFrame), decodeFrame P f = .ok b →
    ((∃ i, decode P (.frame f) = .ok i) ↔
      match b with
      | .configRead _ l | .configWrite _ l | .dataRead l => l < 2 ^ 32
      | .dataWrite p => p.length < 2 ^ 32
      | _ => True))

/-- R95, by constructor: which byte sequences are which frame, with the operands, whatever the length. -/
def Obligations.FrameDecoding : Prop :=
  ∀ (P : Params) (f : List Byte),
    (decodeFrame P f = .ok .statusRead ↔ ∃ x, f = [P.opcStatusRead, x]) ∧
    (∀ a l, decodeFrame P f = .ok (.configRead a l) ↔ ∃ a0 a1 a2 a3 m0 m1 m2 m3,
      f = [P.opcConfigRead, a0, a1, a2, a3, m0, m1, m2, m3] ∧ a = unle32 a0 a1 a2 a3 ∧
      l = (unle32 m0 m1 m2 m3).toNat + 1) ∧
    (∀ a l, decodeFrame P f = .ok (.configWrite a l) ↔ ∃ a0 a1 a2 a3 m0 m1 m2 m3,
      f = [P.opcConfigWrite, a0, a1, a2, a3, m0, m1, m2, m3] ∧ a = unle32 a0 a1 a2 a3 ∧
      l = (unle32 m0 m1 m2 m3).toNat + 1) ∧
    (∀ n, decodeFrame P f = .ok (.dataRead n) ↔ ∃ rest, f = P.opcDataRead :: rest ∧ rest.length = n) ∧
    (∀ p, decodeFrame P f = .ok (.dataWrite p) ↔ f = P.opcDataWrite :: p) ∧
    (decodeFrame P f = .ok .powerOn ↔ f = [P.opcPowerOn]) ∧
    (decodeFrame P f = .ok .powerOff ↔ f = [P.opcPowerOff]) ∧
    (∀ b, decodeFrame P f = .ok b → ∃ o, f.head? = some (P.opcode o))

/-- Words written out from the format tables of R81 to R85 and the codes of R91. -/
def Obligations.SampleWordsDecode : Prop :=
  ∀ P : Params,
    decode P (.frame [P.opcStatusRead, P.fill]) = .ok .statusRead ∧
    decode P (.frame [P.opcConfigRead, 0x08, 0x00, 0x00, 0x00, 0x03, 0x00, 0x00, 0x00]) = .ok (.configRead 8 4) ∧
    decode P (.frame [P.opcConfigWrite, 0x00, 0x10, 0x00, 0x00, 0x00, 0x01, 0x00, 0x00]) = .ok (.configWrite 0x1000 257) ∧
    decode P (.frame [P.opcDataRead, P.fill, P.fill, P.fill, P.fill]) = .ok (.dataRead 4) ∧
    decode P (.frame [P.opcDataWrite, 0xFF, 0x06, 0x0E]) = .ok (.dataWrite [0xFF, 0x06, 0x0E]) ∧
    decode P (.frame [P.opcPowerOn]) = .ok .powerOn ∧
    decode P (.frame [P.opcPowerOff]) = .ok .powerOff ∧
    decodeCommand ⟨2#2, [0x50, 0x49]⟩ = .ok (.write [0x50, 0x49]) ∧
    (∀ p, decodeCommand ⟨0#2, p⟩ = .ok .init ∧ decodeCommand ⟨1#2, p⟩ = .ok .read ∧
      decodeCommand ⟨3#2, p⟩ = .ok .release)

/-! ## The hit test -/

/-- R133: any bit of the mask, bits outside it do not matter, a zero mask never (this marked there as derived). -/
def Obligations.HitIsAnyBitOfTheMask : Prop :=
  (∀ status mask : Byte, status ≠ 0xFF#8 → (hit status mask = true ↔ status &&& mask ≠ 0#8)) ∧
  (∀ status : Byte, hit status 0#8 = false) ∧
  (∀ status status' mask : Byte, status ≠ 0xFF#8 → status' ≠ 0xFF#8 → status &&& mask = status' &&& mask →
    hit status mask = hit status' mask)

/-- R132, whole: 0xFF hits no mask, and the attempt that reads it ends as a miss does. -/
def Obligations.SentinelIsAMiss : Prop :=
  (∀ mask : Byte, hit 0xFF#8 mask = false) ∧
  (∀ (s : State) (site : PollSite) (x : Byte), s.seq = siteStat site →
    answerFor (encStatusRead Config.params) s = some [x, 0xFF#8] →
    exec .statusRead s = .next (nextAttempt site (afterExchange (encStatusRead Config.params) (spendAttempt site s))))

/-! ## The command port: INIT, READ, WRITE, RELEASE at IDLE, and while busy -/

/-- R161, R163, R165(b): INIT in `Off`. -/
def Obligations.InitFromOffStartsTheHandshake : Prop :=
  ∀ s : State, s.seq = .idle → s.pwr = .off → exec .init s = .next { s with pwr := .poweringOn, seq := .pOn }

/-- R167, R187: INIT in any other power state. -/
def Obligations.InitOutsideOffIsBadState : Prop :=
  ∀ s : State, s.seq = .idle → s.pwr ≠ .off →
    exec .init s = .next { s with cnt := 0, len := 0#32, buf := [], trace := s.trace ++ [.response .badState [] .none] }

/-- R166: the gate. -/
def Obligations.GateRefusesTransfers : Prop :=
  ∀ (s : State) (p : List Byte), s.seq = .idle → s.pwr ≠ .on →
    exec .read s =
      .next { s with cnt := 0, len := 0#32, buf := [], trace := s.trace ++ [.response .notReady [] .none] } ∧
    exec (.write p) s =
      .next { s with cnt := 0, len := 0#32, buf := [], trace := s.trace ++ [.response .notReady [] .none] }

/-- R24, R141: READ in `On`. -/
def Obligations.ReadFromOnStartsTheSequence : Prop :=
  ∀ s : State, s.seq = .idle → s.pwr = .on → exec .read s = .next { s with seq := .rCfgL }

/-- R24, R143, R144(a), R190: WRITE in `On`, empty or not. -/
def Obligations.WriteFromOnTakesThePayload : Prop :=
  ∀ (s : State) (p : List Byte), s.seq = .idle → s.pwr = .on →
    exec (.write p) s = .next (if p = [] then
      { s with cnt := 0, len := 0#32, buf := [], trace := s.trace ++ [.response .invalidArgument [] .none] }
      else { s with buf := p, seq := .wCfgL })

/-- R24, R162: RELEASE in every power state. -/
def Obligations.ReleaseAccepted : Prop :=
  ∀ s : State, s.seq = .idle →
    exec .release s = .next (if s.pwr = .on then { s with seq := .xOff }
      else { s with pwr := .off, budget := Config.params.pwrAttempts, cnt := 0, len := 0#32, buf := [],
                    trace := s.trace ++ [.response .ok [] .none] })

/-- R91: a command presented while busy stays at the port (how the model says so: log 9). -/
def Obligations.BusyPortHoldsTheCommand : Prop :=
  ∀ (s : State) (p : List Byte), s.seq ≠ .idle →
    exec .init s = .next { s with port := ⟨0#2, []⟩ :: s.port } ∧
    exec .read s = .next { s with port := ⟨1#2, []⟩ :: s.port } ∧
    exec (.write p) s = .next { s with port := ⟨2#2, p⟩ :: s.port } ∧
    exec .release s = .next { s with port := ⟨3#2, []⟩ :: s.port }

/-- R61, R91: no step of a command in progress takes from the port. -/
def Obligations.BusyStepsLeaveThePort : Prop :=
  ∀ s t : State, s.seq ≠ .idle → step s = .next t → t.port = s.port

/-! ## The frames -/

/-- R24, R161, R22: STATUS_READ in the handshake. -/
def Obligations.StatusReadInTheHandshake : Prop :=
  ∀ (s : State) (inn : List Byte), s.seq = .pStat → answerFor (encStatusRead Config.params) s = some inn →
    exec .statusRead s = .next (
      let u : State := { s with budget := s.budget - 1, answers := s.answers.tail,
                                trace := s.trace ++ [.exchange (encStatusRead Config.params) (some inn)] }
      if hit (statusByte inn) Config.params.flagSlaveOn then
        { u with pwr := .on, seq := .idle, cnt := 0, len := 0#32, buf := [],
                 trace := u.trace ++ [.response .ok [] .none] }
      else if s.budget - 1 = 0 then
        { u with pwr := .failed, seq := .idle, cnt := 0, len := 0#32, buf := [],
                 trace := u.trace ++ [.response .powerOnTimeout [] .none] }
      else { u with seq := .pWait })

/-- R24, R138: STATUS_READ in READ steps 2 and 5. -/
def Obligations.StatusReadInRead : Prop :=
  ∀ (s : State) (inn : List Byte), answerFor (encStatusRead Config.params) s = some inn →
    let u : State := { s with cnt := s.cnt - 1, answers := s.answers.tail,
                              trace := s.trace ++ [.exchange (encStatusRead Config.params) (some inn)] }
    (s.seq = .rStat1 → exec .statusRead s = .next (
      if hit (statusByte inn) Config.params.flagFifoReady then { u with seq := .rDatL }
      else if s.cnt - 1 = 0 then
        { u with seq := .idle, cnt := 0, len := 0#32, buf := [], trace := u.trace ++ [.response .ok [] .notReadyLen] }
      else { u with seq := .rWait1 })) ∧
    (s.seq = .rStat2 → exec .statusRead s = .next (
      if hit (statusByte inn) Config.params.flagFifoReady then { u with seq := .rDatB }
      else if s.cnt - 1 = 0 then
        { u with seq := .idle, cnt := 0, len := 0#32, buf := [], trace := u.trace ++ [.response .ok [] .notReadyBuf] }
      else { u with seq := .rWait2 }))

/-- R24, R138: STATUS_READ in WRITE steps 2, 5 and 7. -/
def Obligations.StatusReadInWrite : Prop :=
  ∀ (s : State) (inn : List Byte), answerFor (encStatusRead Config.params) s = some inn →
    let u : State := { s with cnt := s.cnt - 1, answers := s.answers.tail,
                              trace := s.trace ++ [.exchange (encStatusRead Config.params) (some inn)] }
    let late : State := { u with seq := .idle, cnt := 0, len := 0#32, buf := [],
                                 trace := u.trace ++ [.response .pollTimeout [] .none] }
    (s.seq = .wStat1 → exec .statusRead s = .next (
      if hit (statusByte inn) Config.params.flagFifoReady then { u with seq := .wDatL }
      else if s.cnt - 1 = 0 then late else { u with seq := .wWait1 })) ∧
    (s.seq = .wStat2 → exec .statusRead s = .next (
      if hit (statusByte inn) Config.params.flagFifoReady then { u with seq := .wData }
      else if s.cnt - 1 = 0 then late else { u with seq := .wWait2 })) ∧
    (s.seq = .wStat3 → exec .statusRead s = .next (
      if hit (statusByte inn) Config.params.flagRdwrFinished then
        { u with seq := .idle, cnt := 0, len := 0#32, buf := [], trace := u.trace ++ [.response .ok [] .none] }
      else if s.cnt - 1 = 0 then late else { u with seq := .wWait3 }))

/-- R24: CONFIG_READ in READ steps 1 and 4 and WRITE step 1. -/
def Obligations.ConfigReadEntersItsPoll : Prop :=
  ∀ (s : State) (a l : U32) (out inn : List Byte), encConfigRead Config.params a l = .ok out →
    answerFor out s = some inn →
    let u : State := { s with cnt := Config.params.fifoAttempts, answers := s.answers.tail,
                              trace := s.trace ++ [.exchange out (some inn)] }
    (s.seq = .rCfgL → exec (.configRead a l) s = .next { u with seq := .rWait1 }) ∧
    (s.seq = .rCfgB → exec (.configRead a l) s = .next { u with seq := .rWait2 }) ∧
    (s.seq = .wCfgL → exec (.configRead a l) s = .next { u with seq := .wWait1 })

/-- R24: CONFIG_WRITE in WRITE step 4. -/
def Obligations.ConfigWriteEntersItsPoll : Prop :=
  ∀ (s : State) (a l : U32) (out inn : List Byte), encConfigWrite Config.params a l = .ok out →
    answerFor out s = some inn → s.seq = .wCfgB →
    exec (.configWrite a l) s = .next { s with cnt := Config.params.fifoAttempts, seq := .wWait2,
                                               answers := s.answers.tail, trace := s.trace ++ [.exchange out (some inn)] }

/-- R110, R191: a config frame of length 0 is never on the bus. That the command ends with `InvalidArgument` in a phase that
no sequence of the block reaches with length 0 is the model's reading (log 7). -/
def Obligations.ConfigFrameOfLengthZeroIsAnError : Prop :=
  ∀ (s : State) (a : U32),
    let t : State := { s with seq := .idle, cnt := 0, len := 0#32, buf := [],
                              trace := s.trace ++ [.response .invalidArgument [] .none] }
    ((s.seq = .rCfgL ∨ s.seq = .rCfgB ∨ s.seq = .wCfgL) → exec (.configRead a 0#32) s = .next t) ∧
    (s.seq = .wCfgB → exec (.configWrite a 0#32) s = .next t)

/-- R24, R26, R87, R142(a): DATA_READ in READ step 3. -/
def Obligations.DataReadTakesAvailable : Prop :=
  (∀ b0 b1 b2 b3 b4 : Byte, lengthField [b0, b1, b2, b3, b4] = unle32 b1 b2 b3 b4) ∧
  (∀ (s : State) (n : U32) (inn : List Byte), s.seq = .rDatL →
    answerFor (encDataRead Config.params n) s = some inn →
    exec (.dataRead n) s = .next (
      let u : State := { s with answers := s.answers.tail,
                                trace := s.trace ++ [.exchange (encDataRead Config.params n) (some inn)] }
      if lengthField inn = 0#32 then
        { u with seq := .idle, cnt := 0, len := 0#32, buf := [], trace := u.trace ++ [.response .ok [] .noData] }
      else { u with len := lengthField inn, seq := .rCfgB }))

/-- R24, R26, R144(c), R183: DATA_READ in WRITE step 3. -/
def Obligations.DataReadTakesFreeSpace : Prop :=
  ∀ (s : State) (n : U32) (inn : List Byte), s.seq = .wDatL →
    answerFor (encDataRead Config.params n) s = some inn →
    exec (.dataRead n) s = .next (
      let u : State := { s with answers := s.answers.tail,
                                trace := s.trace ++ [.exchange (encDataRead Config.params n) (some inn)] }
      if (lengthField inn).toNat < s.buf.length then
        { u with seq := .idle, cnt := 0, len := 0#32, buf := [],
                 trace := u.trace ++ [.response .insufficientSpace [] .none] }
      else { u with len := lengthField inn, seq := .wCfgB })

/-- R24, R83, R142(f): DATA_READ in READ step 6 responds with every byte after the first. -/
def Obligations.DataReadReturnsThePayload : Prop :=
  ∀ (s : State) (n : U32) (b : Byte) (data : List Byte), s.seq = .rDatB →
    answerFor (encDataRead Config.params n) s = some (b :: data) →
    data.length = n.toNat ∧
    exec (.dataRead n) s = .next
      { s with seq := .idle, cnt := 0, len := 0#32, buf := [], answers := s.answers.tail,
               trace := s.trace ++ [.exchange (encDataRead Config.params n) (some (b :: data)),
                                    .response .ok data .none] }

/-- R24: DATA_WRITE in WRITE step 6. -/
def Obligations.DataWriteEntersTheFinishPoll : Prop :=
  ∀ (s : State) (p inn : List Byte), s.seq = .wData → answerFor (encDataWrite Config.params p) s = some inn →
    exec (.dataWrite p) s = .next
      { s with cnt := Config.params.finAttempts, seq := .wWait3, answers := s.answers.tail,
               trace := s.trace ++ [.exchange (encDataWrite Config.params p) (some inn)] }

/-- R24, R161: POWER_ON, and the handshake's first attempt, or its end when no attempt is left. -/
def Obligations.PowerOnEntersTheHandshakePoll : Prop :=
  ∀ (s : State) (inn : List Byte), s.seq = .pOn → answerFor (encPowerOn Config.params) s = some inn →
    exec .powerOn s = .next (
      let u : State := { s with answers := s.answers.tail,
                                trace := s.trace ++ [.exchange (encPowerOn Config.params) (some inn)] }
      if s.budget = 0 then
        { u with pwr := .failed, seq := .idle, cnt := 0, len := 0#32, buf := [],
                 trace := u.trace ++ [.response .powerOnTimeout [] .none] }
      else { u with seq := .pWait })

/-- R24, R162: POWER_OFF ends the Session whether or not its exchange failed. -/
def Obligations.PowerOffEndsTheSession : Prop :=
  ∀ s : State, s.seq = .xOff →
    let got := answerFor (encPowerOff Config.params) s
    exec .powerOff s = .next
      { s with pwr := .off, budget := Config.params.pwrAttempts, seq := .idle, cnt := 0, len := 0#32, buf := [],
               answers := s.answers.tail,
               trace := s.trace ++ [.exchange (encPowerOff Config.params) got,
                                    .response (if got = none then .busUnavailable else .ok) [] .none] }

/-- R164: a failed exchange of INIT, READ or WRITE, and what commands meet after it. -/
def Obligations.FailedExchangeIsFatal : Prop :=
  ∀ (s : State) (i : Instr) (out : List Byte), s.seq ≠ .xOff → enabled i s.seq = true →
    encode Config.params i = some (.frame out) → answerFor out s = none →
    ∃ t, exec i s = .next t ∧
      t = { s with pwr := .failed, budget := if s.seq = .pStat then s.budget - 1 else s.budget, seq := .idle, cnt := 0,
                   len := 0#32, buf := [], answers := s.answers.tail,
                   trace := s.trace ++ [.exchange out none, .response .busUnavailable [] .none] } ∧
      exec .read t = .next { t with trace := t.trace ++ [.response .notReady [] .none] } ∧
      (∀ p, exec (.write p) t = .next { t with trace := t.trace ++ [.response .notReady [] .none] }) ∧
      exec .init t = .next { t with trace := t.trace ++ [.response .badState [] .none] }

/-- R24, R34, and 93_implementation_defined.md U3: a frame or POLL where the block issues none is refused by name. The
model's choice of a refusal is log 8. -/
def Obligations.OutOfSequenceIsRefused : Prop :=
  ∀ (s : State) (i : Instr), enabled i s.seq = false → exec i s = .refused (.notEnabled (mnemonicOf i))

/-! ## POLL -/

/-- R138: the value of POLL handed to the command it stands in (log 14), for any n (log 19). -/
def Obligations.PollHandsItsValueToItsSite : Prop :=
  ∀ (s t : State) (site : PollSite) (flag : Byte) (n : Nat), s.seq = siteWait site →
    let done (c : RespCode) (x : Detail) : State :=
      { t with seq := .idle, cnt := 0, len := 0#32, buf := [], trace := t.trace ++ [.response c [] x] }
    (∀ k, poll Config.params site flag n s = (.success k, t) →
      exec (.poll flag n) s = .next (match site with
        | .init => { done .ok .none with pwr := .on }
        | .read2 => { t with seq := .rDatL }
        | .read5 => { t with seq := .rDatB }
        | .write2 => { t with seq := .wDatL }
        | .write5 => { t with seq := .wData }
        | .write7 => done .ok .none)) ∧
    (poll Config.params site flag n s = (.timeout, t) →
      exec (.poll flag n) s = .next (match site with
        | .init => { done .powerOnTimeout .none with pwr := .failed }
        | .read2 => done .ok .notReadyLen
        | .read5 => done .ok .notReadyBuf
        | .write2 => done .pollTimeout .none
        | .write5 => done .pollTimeout .none
        | .write7 => done .pollTimeout .none)) ∧
    (poll Config.params site flag n s = (.busFailed, t) →
      exec (.poll flag n) s = .next { done .busUnavailable .none with pwr := .failed })

/-- R134, which the spec marks as derived from R130's pseudocode: success on attempt k if and only if the k-th status hits
and none before it, timeout if and only if none of n hits; as many status reads and delays as attempts; none for n = 0. -/
def Obligations.PollCountsAttempts : Prop :=
  ∀ (P : Params) (site : PollSite) (flag : Byte) (n : Nat) (s : State) (replies : List (Byte × Byte))
    (rest : List Answer), s.answers = replies.map (fun r => .ok [r.1, r.2]) ++ rest → n ≤ replies.length →
    (∀ k, (poll P site flag n s).1 = .success k ↔
      1 ≤ k ∧ k ≤ n ∧ (∃ r, replies[k - 1]? = some r ∧ hit r.2 flag = true) ∧
      ∀ j r, j < k - 1 → replies[j]? = some r → hit r.2 flag = false) ∧
    ((poll P site flag n s).1 = .timeout ↔ ∀ j r, j < n → replies[j]? = some r → hit r.2 flag = false) ∧
    (∀ k, (poll P site flag n s).1 = .success k →
      exchangeCount (poll P site flag n s).2.trace = exchangeCount s.trace + k ∧
      delayCount (poll P site flag n s).2.trace = delayCount s.trace + k) ∧
    ((poll P site flag n s).1 = .timeout →
      exchangeCount (poll P site flag n s).2.trace = exchangeCount s.trace + n ∧
      delayCount (poll P site flag n s).2.trace = delayCount s.trace + n)

/-- R136, with POLL run whole (log 14) for any n (log 19): a failed exchange ends the poll at once, its attempt counted, and the command ends with `BusUnavailable`. -/
def Obligations.PollEndsAtAFailedExchange : Prop :=
  ∀ (site : PollSite) (flag : Byte) (n : Nat) (s : State) (misses : List (Byte × Byte)) (rest : List Answer),
    s.seq = siteWait site → s.answers = misses.map (fun r => .ok [r.1, r.2]) ++ .fail :: rest → misses.length < n →
    (∀ r ∈ misses, hit r.2 flag = false) →
    ∃ u, poll Config.params site flag n s = (.busFailed, u) ∧ remaining site u = n - (misses.length + 1) ∧
      exchangeCount u.trace = exchangeCount s.trace + misses.length + 1 ∧ u.answers = rest ∧
      exec (.poll flag n) s = .next { u with pwr := .failed, seq := .idle, cnt := 0, len := 0#32, buf := [],
                                             trace := u.trace ++ [.response .busUnavailable [] .none] }

/-- R94, R130, R138 (log 14): POLL run whole ends in the state that the machine's own delays and status reads reach, after
as many of each as attempts were made. -/
def Obligations.PollIsItsExpansion : Prop :=
  ∀ (s : State) (site : PollSite), s.seq = siteWait site → s.resetIn = [] → 1 ≤ remaining site s →
    ∃ k t, 1 ≤ k ∧ k ≤ remaining site s ∧
      exec (.poll (siteFlag Config.params site) (remaining site s)) s = .next t ∧ run (2 * k) s = .next t

/-! ## One step of the machine -/

/-- A step at `IDLE` runs the command the port presents, with the sample of the reset input used up and the command taken. -/
def Obligations.StepRunsTheCommand : Prop :=
  ∀ (s : State) (w : PortWord) (rest : List PortWord) (i : Instr), s.seq = .idle → s.resetIn.head? ≠ some true →
    s.port = w :: rest → decodeCommand w = .ok i →
    step s = exec i { s with port := rest, resetIn := s.resetIn.tail }

/-- A step of a command in progress runs the frame of its phase (R24), with the operands of R141, R143, R161, R162. -/
def Obligations.StepRunsThePhaseFrame : Prop :=
  ∀ s : State, s.resetIn.head? ≠ some true →
    let u : State := { s with resetIn := s.resetIn.tail }
    (s.seq = .pOn → step s = exec .powerOn u) ∧
    (s.seq = .pStat ∨ s.seq = .rStat1 ∨ s.seq = .rStat2 ∨ s.seq = .wStat1 ∨ s.seq = .wStat2 ∨ s.seq = .wStat3 →
      step s = exec .statusRead u) ∧
    (s.seq = .rCfgL → step s = exec (.configRead Config.params.addrTxLen 4#32) u) ∧
    (s.seq = .rDatL ∨ s.seq = .wDatL → step s = exec (.dataRead 4#32) u) ∧
    (s.seq = .rCfgB → step s = exec (.configRead Config.params.addrTxBuf s.len) u) ∧
    (s.seq = .rDatB → step s = exec (.dataRead s.len) u) ∧
    (s.seq = .wCfgL → step s = exec (.configRead Config.params.addrRxLen 4#32) u) ∧
    (s.seq = .wCfgB → step s = exec (.configWrite Config.params.addrRxBuf (BitVec.ofNat 32 s.buf.length)) u) ∧
    (s.seq = .wData → step s = exec (.dataWrite s.buf) u) ∧
    (s.seq = .xOff → step s = exec .powerOff u)

/-- R24, R135: a delay phase delays for the interval and goes to its status read. -/
def Obligations.StepDelays : Prop :=
  ∀ s : State, s.resetIn.head? ≠ some true →
    let u : State := { s with resetIn := s.resetIn.tail, trace := s.trace ++ [.delay Config.params.attemptInterval] }
    (s.seq = .pWait → step s = .next { u with seq := .pStat }) ∧
    (s.seq = .rWait1 → step s = .next { u with seq := .rStat1 }) ∧
    (s.seq = .rWait2 → step s = .next { u with seq := .rStat2 }) ∧
    (s.seq = .wWait1 → step s = .next { u with seq := .wStat1 }) ∧
    (s.seq = .wWait2 → step s = .next { u with seq := .wStat2 }) ∧
    (s.seq = .wWait3 → step s = .next { u with seq := .wStat3 })

/-- R220, R221, with the reset input sampled once a step (log 6): the reset values, at power-on and whenever the reset
input is asserted, with no exchange and no response, what is outside the block untouched (log 20); and the block waiting at
`IDLE` for a command. -/
def Obligations.ResetLeavesItsValues : Prop :=
  (State.reset.pwr = .off ∧ State.reset.budget = Config.params.pwrAttempts ∧ State.reset.seq = .idle ∧
    State.reset.cnt = 0 ∧ State.reset.len = 0#32 ∧ State.reset.buf = []) ∧
  (∀ s : State, s.resetIn.head? = some true →
    step s = .next { s with pwr := .off, budget := Config.params.pwrAttempts, seq := .idle, cnt := 0, len := 0#32, buf := [],
                            resetIn := s.resetIn.tail }) ∧
  (∀ s : State, s.seq = .idle → s.resetIn.head? ≠ some true → s.port = [] →
    step s = .next { s with resetIn := s.resetIn.tail })

/-- No step stops, but for a port word whose payload is longer than the port's operand (R91; log 12). -/
def Obligations.StepNeverStops : Prop :=
  ∀ s : State, (∀ w, s.port.head? = some w → w.payload.length < 2 ^ 32) → ∃ t, step s = .next t

/-- A word of the command port placed by `withFetchWord` is what the very next step runs (log 17). -/
def Obligations.PlacedCommandRunsNext : Prop :=
  ∀ (s : State) (nbits w : Nat), nbits ≤ 8 →
    ∃ i, decodeTableWord nbits w = some i ∧ i ∈ [Instr.init, .read, .write [], .release] ∧
      step (s.withFetchWord nbits w) = exec i { s with seq := .idle, resetIn := [] }

/-! ## What every step keeps -/

/-- The state after reset is legal, and its empty history safe. -/
def Obligations.ResetIsLegal : Prop :=
  Inv Config.params State.reset ∧ TurnaroundKept Config.params State.reset ∧ FlowControlled Config.params State.reset

/-- R20, R22, R25, R27, R29: the legal states are kept. -/
def Obligations.StepKeepsTheInvariant : Prop :=
  ∀ s t : State, Inv Config.params s → step s = .next t → Inv Config.params t

/-- R135, R224: every status-read exchange ever made came directly after a delay. -/
def Obligations.StepKeepsTheTurnaround : Prop :=
  ∀ s t : State, TurnaroundKept Config.params s → step s = .next t → TurnaroundKept Config.params t

/-- R229, R66(a), R86: every data frame ever sent moved exactly the bytes its config frame announced, directly after
FIFO-ready was seen; and a data-write goes out only with a payload that fits the free space the command has read. -/
def Obligations.StepKeepsFlowControl : Prop :=
  ∀ s t : State, Inv Config.params s → FlowControlled Config.params s → step s = .next t →
    FlowControlled Config.params t ∧
    (∀ out answer more, t.trace = s.trace ++ .exchange out answer :: more → isFrame Config.params .dataWrite out →
      out.length - 1 ≤ s.len.toNat ∧ out.length - 1 = s.buf.length)

/-- R163: the complete transition relation of `pwr`. -/
def Obligations.PowerTransitions : Prop :=
  ∀ s t : State, Inv Config.params s → step s = .next t →
    t.pwr = s.pwr ∨
    (t.pwr = .off ∧ s.resetIn.head? = some true) ∨
    (s.pwr = .off ∧ t.pwr = .poweringOn ∧ s.seq = .idle ∧ t.seq = .pOn ∧
      ∃ w, s.port.head? = some w ∧ decodeCommand w = .ok .init) ∨
    (s.pwr = .poweringOn ∧ t.pwr = .on ∧ s.seq = .pStat ∧ ∃ inn,
      answerFor (encStatusRead Config.params) s = some inn ∧ hit (statusByte inn) Config.params.flagSlaveOn = true) ∨
    (s.pwr = .poweringOn ∧ t.pwr = .failed ∧ s.seq = .pStat ∧ s.budget = 1 ∧ ∃ inn,
      answerFor (encStatusRead Config.params) s = some inn ∧ hit (statusByte inn) Config.params.flagSlaveOn = false) ∨
    (s.pwr = .poweringOn ∧ t.pwr = .failed ∧
      ((s.seq = .pOn ∧ answerFor (encPowerOn Config.params) s = none) ∨
       (s.seq = .pStat ∧ answerFor (encStatusRead Config.params) s = none))) ∨
    (s.pwr = .on ∧ t.pwr = .failed ∧ s.seq ≠ .xOff ∧ ∃ i out, phaseFrame Config.params s = some i ∧
      encode Config.params i = some (.frame out) ∧ answerFor out s = none) ∨
    (s.pwr = .on ∧ t.pwr = .off ∧ s.seq = .xOff) ∨
    (s.pwr = .failed ∧ t.pwr = .off ∧ s.seq = .idle ∧ ∃ w, s.port.head? = some w ∧ decodeCommand w = .ok .release)

/-- R27, R92: a step emits at most one response; the step that emits one is back at `IDLE` with the scratch registers
cleared; and no command in progress comes back to `IDLE` without one, but by reset. -/
def Obligations.OneResponseEndsACommand : Prop :=
  ∀ s t : State, step s = .next t →
    (∃ r, responses t.trace = responses s.trace ++ [r] ∧ t.seq = .idle ∧ t.cnt = 0 ∧ t.len = 0#32 ∧ t.buf = []) ∨
    (responses t.trace = responses s.trace ∧
      (t.seq ≠ .idle ∨ s.resetIn.head? = some true ∨ (s.seq = .idle ∧ s.port = [])))

/-- R191, (a) to (d): the step in which a command ends with an error. -/
def Obligations.ErrorsEndTheirCommand : Prop :=
  ∀ (s t : State) (c : RespCode) (d : List Byte) (x : Detail), step s = .next t →
    responses t.trace = responses s.trace ++ [(c, d, x)] → c ≠ .ok →
    d = [] ∧ x = .none ∧ t.seq = .idle ∧ t.cnt = 0 ∧ t.len = 0#32 ∧ t.buf = [] ∧
    t.pwr = (if s.seq = .xOff then .off
      else if c = .powerOnTimeout ∨ c = .busUnavailable then .failed else s.pwr) ∧
    t.trace.getLast? = some (.response c [] .none)

/-- R56: which step of which command a frame on the bus comes from, and with which register and length. -/
def Obligations.FramesComeFromTheirSteps : Prop :=
  ∀ (s t : State) (out : List Byte) (answer : Option (List Byte)) (more : List Event), step s = .next t →
    t.trace = s.trace ++ .exchange out answer :: more →
    (∀ a l, decodeFrame Config.params out = .ok (.configRead a l) →
      (s.seq = .rCfgL ∧ a = Config.params.addrTxLen ∧ l = 4) ∨
      (s.seq = .rCfgB ∧ a = Config.params.addrTxBuf ∧ l = s.len.toNat) ∨
      (s.seq = .wCfgL ∧ a = Config.params.addrRxLen ∧ l = 4)) ∧
    (∀ a l, decodeFrame Config.params out = .ok (.configWrite a l) →
      s.seq = .wCfgB ∧ a = Config.params.addrRxBuf ∧ l = (BitVec.ofNat 32 s.buf.length).toNat) ∧
    (∀ n, decodeFrame Config.params out = .ok (.dataRead n) →
      (s.seq = .rDatL ∧ n = 4) ∨ (s.seq = .rDatB ∧ n = s.len.toNat) ∨ (s.seq = .wDatL ∧ n = 4)) ∧
    (∀ p, decodeFrame Config.params out = .ok (.dataWrite p) → s.seq = .wData ∧ p = s.buf) ∧
    (decodeFrame Config.params out = .ok .statusRead → ∃ site, s.seq = siteStat site)

/-- R89: response bytes at positions the block does not read change nothing but their own record: the two steps add the same
exchange but for its response, and the same events after it. -/
def Obligations.UnreadBytesChangeNothing : Prop :=
  ∀ (s : State) (i : Instr) (out a b : List Byte) (rest : List Answer), s.resetIn.head? ≠ some true →
    phaseFrame Config.params s = some i → encode Config.params i = some (.frame out) →
    a.length = out.length → b.length = out.length → (∀ k, readsPosition i k → a[k]? = b[k]?) →
    ∃ t t' more, step { s with answers := .ok a :: rest } = .next t ∧ step { s with answers := .ok b :: rest } = .next t' ∧
      t.trace = s.trace ++ .exchange out (some a) :: more ∧ t'.trace = s.trace ++ .exchange out (some b) :: more ∧
      t' = { t with trace := t'.trace }

/-! ## Whole commands -/

/-- R161: INIT runs as its pseudocode, one exchange or delay a step. -/
def Obligations.InitRunsItsSequence : Prop :=
  ∀ (s : State) (w : PortWord) (rest : List PortWord), s.seq = .idle → s.resetIn = [] → s.port = w :: rest →
    decodeCommand w = .ok .init → ∃ k, run k s = .next (initSequence Config.params { s with port := rest })

/-- R141: READ runs as its pseudocode, one exchange or delay a step. -/
def Obligations.ReadRunsItsSequence : Prop :=
  ∀ (s : State) (w : PortWord) (rest : List PortWord), s.seq = .idle → s.resetIn = [] → s.port = w :: rest →
    decodeCommand w = .ok .read → ∃ k, run k s = .next (readSequence Config.params { s with port := rest })

/-- R143: WRITE runs as its pseudocode, one exchange or delay a step. -/
def Obligations.WriteRunsItsSequence : Prop :=
  ∀ (s : State) (w : PortWord) (rest : List PortWord) (p : List Byte), s.seq = .idle → s.resetIn = [] →
    s.port = w :: rest → decodeCommand w = .ok (.write p) →
    ∃ k, run k s = .next (writeSequence Config.params p { s with port := rest })

/-- R162, whole: RELEASE, its two steps. -/
def Obligations.ReleaseRunsItsSequence : Prop :=
  ∀ (s : State) (w : PortWord) (rest : List PortWord), s.seq = .idle → s.resetIn = [] → s.port = w :: rest →
    decodeCommand w = .ok .release →
    ∃ k t, run k s = .next t ∧ t.pwr = .off ∧ t.budget = Config.params.pwrAttempts ∧ t.seq = .idle ∧ t.port = rest ∧
      (if s.pwr = .on then
        k = 2 ∧ t.trace = s.trace ++ [.exchange (encPowerOff Config.params) (answerFor (encPowerOff Config.params) s),
          .response (if answerFor (encPowerOff Config.params) s = none then .busUnavailable else .ok) [] .none]
      else k = 1 ∧ t.trace = s.trace ++ [.response .ok [] .none])

/-- R231, which the spec marks as derived. It says "provided each exchange returns": in the model every exchange does (log 16,
a DESIGN CHOICE, unsafe for termination). Every command ends, within its bounds of exchanges and delays, at `IDLE` with one response. -/
def Obligations.CommandsEndWithinTheirBounds : Prop :=
  ∀ (s : State) (w : PortWord) (rest : List PortWord) (i : Instr), Inv Config.params s → s.seq = .idle →
    s.resetIn = [] → s.port = w :: rest → decodeCommand w = .ok i →
    ∃ k t r, run k s = .next t ∧ t.seq = .idle ∧ t.port = rest ∧ responses t.trace = responses s.trace ++ [r] ∧
      (let e := exchangeCount t.trace - exchangeCount s.trace
       let d := delayCount t.trace - delayCount s.trace
       let P := Config.params
       k ≤ 1 + e + d ∧
       match i with
       | .init => e ≤ 1 + P.pwrAttempts ∧ d ≤ P.pwrAttempts
       | .read => e ≤ 4 + 2 * P.fifoAttempts ∧ d ≤ 2 * P.fifoAttempts
       | .write _ => e ≤ 4 + 2 * P.fifoAttempts + P.finAttempts ∧ d ≤ 2 * P.fifoAttempts + P.finAttempts
       | _ => e ≤ 1 ∧ d = 0)

/-- R148, which the spec marks as derived: how many exchanges and delays the four outcomes take. -/
def Obligations.ExchangesAreCounted : Prop :=
  ∀ (P : Params) (s : State) (p : List Byte), s.pwr = .on →
    (∀ data, (readSequence P s).trace.getLast? = some (.response .ok data .none) →
      ∃ k2 k5, 1 ≤ k2 ∧ k2 ≤ P.fifoAttempts ∧ 1 ≤ k5 ∧ k5 ≤ P.fifoAttempts ∧
        exchangeCount (readSequence P s).trace = exchangeCount s.trace + (4 + k2 + k5) ∧
        delayCount (readSequence P s).trace = delayCount s.trace + (k2 + k5)) ∧
    ((readSequence P s).trace.getLast? = some (.response .ok [] .noData) →
      ∃ k2, 1 ≤ k2 ∧ k2 ≤ P.fifoAttempts ∧
        exchangeCount (readSequence P s).trace = exchangeCount s.trace + (2 + k2)) ∧
    ((writeSequence P p s).trace.getLast? = some (.response .ok [] .none) →
      ∃ k2 k5 k7, 1 ≤ k2 ∧ k2 ≤ P.fifoAttempts ∧ 1 ≤ k5 ∧ k5 ≤ P.fifoAttempts ∧ 1 ≤ k7 ∧ k7 ≤ P.finAttempts ∧
        exchangeCount (writeSequence P p s).trace = exchangeCount s.trace + (4 + k2 + k5 + k7) ∧
        delayCount (writeSequence P p s).trace = delayCount s.trace + (k2 + k5 + k7)) ∧
    ((writeSequence P p s).trace.getLast? = some (.response .insufficientSpace [] .none) →
      ∃ k2, 1 ≤ k2 ∧ k2 ≤ P.fifoAttempts ∧
        exchangeCount (writeSequence P p s).trace = exchangeCount s.trace + (2 + k2))

/-- R161, R165(c), R165(d), the source's T6: the handshake succeeds on the attempt that first sees SLAVE_ON, or times out
after exactly `PWR_ATTEMPTS`. -/
def Obligations.HandshakeConsumesItsBudget : Prop :=
  ∀ (P : Params) (s : State) (x : Byte) (misses : List (Byte × Byte)) (rest : List Answer), s.pwr = .off →
    s.budget = P.pwrAttempts → s.answers = .ok [x] :: (misses.map (fun r => .ok [r.1, r.2]) ++ rest) →
    (∀ r ∈ misses, hit r.2 P.flagSlaveOn = false) →
    let t := initSequence P s
    (∀ y b more, misses.length < P.pwrAttempts → rest = .ok [y, b] :: more → hit b P.flagSlaveOn = true →
      t.pwr = .on ∧ t.budget = P.pwrAttempts - (misses.length + 1) ∧
      responses t.trace = responses s.trace ++ [(.ok, [], .none)] ∧
      exchangeCount t.trace = exchangeCount s.trace + (1 + (misses.length + 1)) ∧
      delayCount t.trace = delayCount s.trace + (misses.length + 1)) ∧
    (misses.length = P.pwrAttempts →
      t.pwr = .failed ∧ t.budget = 0 ∧ responses t.trace = responses s.trace ++ [(.powerOnTimeout, [], .none)] ∧
      exchangeCount t.trace = exchangeCount s.trace + (1 + P.pwrAttempts) ∧
      delayCount t.trace = delayCount s.trace + P.pwrAttempts)

/-- R149, the source's T5: a WRITE followed by a READ, against a module that is ready within each poll's budget, has room, and
gives back from its TX buffer the bytes of the WRITE, yields exactly the payload, which went out in one data-write frame. The
module is the premise on the answers: misses `m1` to `m5` before the hits `r1` to `r5`; every byte the block does not read
(`c1` to `c4`, `d`, `x1` to `x8`, and byte 0 of the misses) is arbitrary. -/
def Obligations.WriteThenReadRoundTrip : Prop :=
  ∀ (P : Params) (s : State) (p c1 c2 c3 c4 d : List Byte) (m1 m2 m3 m4 m5 : List (Byte × Byte))
    (x1 x2 x3 x4 x5 x6 x7 x8 r1 r2 r3 r4 r5 f0 f1 f2 f3 n0 n1 n2 n3 : Byte) (rest : List Answer),
    s.pwr = .on → 1 ≤ p.length → p.length < 2 ^ 32 →
    c1.length = 9 → c2.length = 9 → c3.length = 9 → c4.length = 9 → d.length = p.length + 1 →
    (∀ m ∈ [m1, m2, m4, m5], m.length < P.fifoAttempts ∧ ∀ r ∈ m, hit r.2 P.flagFifoReady = false) →
    m3.length < P.finAttempts → (∀ r ∈ m3, hit r.2 P.flagRdwrFinished = false) →
    hit r1 P.flagFifoReady = true → hit r2 P.flagFifoReady = true → hit r3 P.flagRdwrFinished = true →
    hit r4 P.flagFifoReady = true → hit r5 P.flagFifoReady = true →
    p.length ≤ (unle32 f0 f1 f2 f3).toNat → (unle32 n0 n1 n2 n3).toNat = p.length →
    s.answers = .ok c1 :: (statusAnswers m1 ++ .ok [x1, r1] :: .ok [x2, f0, f1, f2, f3] ::
      .ok c2 :: (statusAnswers m2 ++ .ok [x3, r2] :: .ok d :: (statusAnswers m3 ++ .ok [x4, r3] ::
      .ok c3 :: (statusAnswers m4 ++ .ok [x5, r4] :: .ok [x6, n0, n1, n2, n3] ::
      .ok c4 :: (statusAnswers m5 ++ .ok [x7, r5] :: .ok (x8 :: p) :: rest))))) →
    let t := readSequence P (writeSequence P p s)
    ∃ record, t.trace = s.trace ++ record ∧ responses record = [(.ok, [], .none), (.ok, p, .none)] ∧
      dataWrites P record = [.exchange (encDataWrite P p) (some d)] ∧ t.pwr = .on ∧ t.answers = rest
end

