-- ==== Sys2Proof/Laws/Encode.lean ====
section
/-! SUPPORT. The opcode bytes and the frame constructors: which opcode a byte is, the length and byte 0 of every frame. -/

namespace Sys2Proof

/-- The seven opcode bytes are told apart (R7(a), R88). -/
@[simp] theorem Params.opcodeOf_opcode (P : Params) (o : Opcode) : P.opcodeOf (P.opcode o) = some o := by
  have h := P.opcodes_distinct
  simp only [List.nodup_cons, List.mem_cons, List.not_mem_nil, or_false, not_or] at h
  cases o <;> simp only [Params.opcode, Params.opcodeOf] <;> simp_all [eq_comm]

theorem Params.opcode_injective (P : Params) {o o' : Opcode} (h : P.opcode o = P.opcode o') : o = o' := by
  have := congrArg P.opcodeOf h
  simpa using this

@[simp] theorem Params.opcode_inj (P : Params) {o o' : Opcode} : P.opcode o = P.opcode o' ↔ o = o' :=
  ⟨P.opcode_injective, fun h => by rw [h]⟩

/-- A byte selects an opcode only if it is that opcode's byte. -/
theorem Params.opcodeOf_eq_some (P : Params) {b : Byte} {o : Opcode} : P.opcodeOf b = some o ↔ b = P.opcode o := by
  refine ⟨fun h => ?_, fun h => by rw [h]; simp⟩
  unfold Params.opcodeOf at h
  repeat' split at h
  all_goals first | (cases h; assumption) | cases h

@[simp] theorem encStatusRead_length (P : Params) : (encStatusRead P).length = 2 := rfl
@[simp] theorem encPowerOn_length (P : Params) : (encPowerOn P).length = 1 := rfl
@[simp] theorem encPowerOff_length (P : Params) : (encPowerOff P).length = 1 := rfl
@[simp] theorem encDataRead_length (P : Params) (n : U32) : (encDataRead P n).length = n.toNat + 1 := by
  simp [encDataRead]
@[simp] theorem encDataWrite_length (P : Params) (p : List Byte) : (encDataWrite P p).length = p.length + 1 := rfl

@[simp] theorem encStatusRead_head (P : Params) : (encStatusRead P).head? = some (P.opcode .statusRead) := rfl
@[simp] theorem encPowerOn_head (P : Params) : (encPowerOn P).head? = some (P.opcode .powerOn) := rfl
@[simp] theorem encPowerOff_head (P : Params) : (encPowerOff P).head? = some (P.opcode .powerOff) := rfl
@[simp] theorem encDataRead_head (P : Params) (n : U32) : (encDataRead P n).head? = some (P.opcode .dataRead) := rfl
@[simp] theorem encDataWrite_head (P : Params) (p : List Byte) :
    (encDataWrite P p).head? = some (P.opcode .dataWrite) := rfl

/-- A length that is a u32 is the operand it stands for. -/
@[simp] theorem operandU32_toNat (mk : U32 → Instr) (l : U32) : operandU32 mk l.toNat = .ok (mk l) := by
  unfold operandU32; rw [if_pos l.isLt, BitVec.ofNat_toNat, BitVec.setWidth_eq]

/-- The one way a config frame is raised (R110). -/
theorem encConfig_error_iff {op : Byte} {a l : U32} : encConfig op a l = .error .invalidArgument ↔ l = 0#32 := by
  unfold encConfig
  by_cases h : l = 0#32
  · rw [if_pos h]; exact iff_of_true rfl h
  · rw [if_neg h]; exact iff_of_false (fun h' => by cases h') h

/-- A config frame of a length other than 0 (R82). -/
theorem encConfig_of_ne {op : Byte} {a l : U32} (h : l ≠ 0#32) :
    encConfig op a l = .ok (op :: (le32 a ++ le32 (l - 1#32))) := if_neg h

/-- What a config frame is, when there is one (R82). -/
theorem encConfig_eq_ok {op : Byte} {a l : U32} {out : List Byte} :
    encConfig op a l = .ok out ↔ l ≠ 0#32 ∧ out = op :: (le32 a ++ le32 (l - 1#32)) := by
  by_cases h : l = 0#32
  · subst h; exact iff_of_false (fun h' => by cases h') (fun h' => h'.1 rfl)
  · rw [encConfig_of_ne h, Except.ok.injEq]; exact ⟨fun h' => ⟨h, h'.symm⟩, fun h' => h'.2.symm⟩

end Sys2Proof
end

