-- ==== Sys2Proof/Laws/History.lean ====
section
/-! SUPPORT. Counts and responses of a history, event by event. -/

namespace Sys2Proof.Machine

@[simp] theorem exchangeCount_append (a b : List Event) :
    exchangeCount (a ++ b) = exchangeCount a + exchangeCount b := by simp [exchangeCount]
@[simp] theorem delayCount_append (a b : List Event) : delayCount (a ++ b) = delayCount a + delayCount b := by
  simp [delayCount]
@[simp] theorem responses_append (a b : List Event) : responses (a ++ b) = responses a ++ responses b := by
  simp [responses]

@[simp] theorem exchangeCount_exchange (out : List Byte) (a : Option (List Byte)) (t : List Event) :
    exchangeCount (.exchange out a :: t) = exchangeCount t + 1 := by simp [exchangeCount]
@[simp] theorem exchangeCount_delay (d : Nat) (t : List Event) :
    exchangeCount (.delay d :: t) = exchangeCount t := by simp [exchangeCount]
@[simp] theorem exchangeCount_response (c : RespCode) (d : List Byte) (x : Detail) (t : List Event) :
    exchangeCount (.response c d x :: t) = exchangeCount t := by simp [exchangeCount]
@[simp] theorem exchangeCount_nil : exchangeCount [] = 0 := rfl

@[simp] theorem delayCount_exchange (out : List Byte) (a : Option (List Byte)) (t : List Event) :
    delayCount (.exchange out a :: t) = delayCount t := by simp [delayCount]
@[simp] theorem delayCount_delay (d : Nat) (t : List Event) : delayCount (.delay d :: t) = delayCount t + 1 := by
  simp [delayCount]
@[simp] theorem delayCount_response (c : RespCode) (d : List Byte) (x : Detail) (t : List Event) :
    delayCount (.response c d x :: t) = delayCount t := by simp [delayCount]
@[simp] theorem delayCount_nil : delayCount [] = 0 := rfl

@[simp] theorem responses_exchange (out : List Byte) (a : Option (List Byte)) (t : List Event) :
    responses (.exchange out a :: t) = responses t := rfl
@[simp] theorem responses_delay (d : Nat) (t : List Event) : responses (.delay d :: t) = responses t := rfl
@[simp] theorem responses_response (c : RespCode) (d : List Byte) (x : Detail) (t : List Event) :
    responses (.response c d x :: t) = (c, d, x) :: responses t := rfl
@[simp] theorem responses_nil : responses [] = [] := rfl

@[simp] theorem dataWrites_append (P : Params) (a b : List Event) :
    dataWrites P (a ++ b) = dataWrites P a ++ dataWrites P b := by simp [dataWrites]
@[simp] theorem dataWrites_delay (P : Params) (d : Nat) (t : List Event) :
    dataWrites P (.delay d :: t) = dataWrites P t := by simp [dataWrites]
@[simp] theorem dataWrites_response (P : Params) (c : RespCode) (d : List Byte) (x : Detail) (t : List Event) :
    dataWrites P (.response c d x :: t) = dataWrites P t := by simp [dataWrites]
@[simp] theorem dataWrites_nil (P : Params) : dataWrites P [] = [] := rfl

/-- An exchange is a data-write by its opcode byte alone (R88). -/
theorem dataWrites_exchange (P : Params) {out : List Byte} {o : Opcode} (h : out.head? = some (P.opcode o))
    (a : Option (List Byte)) (t : List Event) :
    dataWrites P (.exchange out a :: t) =
      if o = .dataWrite then .exchange out a :: dataWrites P t else dataWrites P t := by
  by_cases ho : o = .dataWrite
  · subst ho; simp [dataWrites, h]
  · simp [dataWrites, h, ho]

@[simp] theorem statusAnswers_nil : statusAnswers [] = [] := rfl
@[simp] theorem statusAnswers_cons (r : Byte × Byte) (rs : List (Byte × Byte)) :
    statusAnswers (r :: rs) = .ok [r.1, r.2] :: statusAnswers rs := rfl

end Sys2Proof.Machine
end

