-- ==== Sys2Proof/Laws/State.lean ====
section
/-! SUPPORT. What each named operation does to each field of the state: one lemma per field per operation. -/

namespace Sys2Proof.Machine

/-! ### respond -/

@[simp] theorem respond_pwr (c : RespCode) (d : List Byte) (x : Detail) (s : State) :
    (respond c d x s).pwr = s.pwr := rfl
@[simp] theorem respond_budget (c : RespCode) (d : List Byte) (x : Detail) (s : State) :
    (respond c d x s).budget = s.budget := rfl
@[simp] theorem respond_seq (c : RespCode) (d : List Byte) (x : Detail) (s : State) :
    (respond c d x s).seq = .idle := rfl
@[simp] theorem respond_cnt (c : RespCode) (d : List Byte) (x : Detail) (s : State) : (respond c d x s).cnt = 0 := rfl
@[simp] theorem respond_len (c : RespCode) (d : List Byte) (x : Detail) (s : State) : (respond c d x s).len = 0#32 := rfl
@[simp] theorem respond_buf (c : RespCode) (d : List Byte) (x : Detail) (s : State) :
    (respond c d x s).buf = [] := rfl
@[simp] theorem respond_port (c : RespCode) (d : List Byte) (x : Detail) (s : State) :
    (respond c d x s).port = s.port := rfl
@[simp] theorem respond_answers (c : RespCode) (d : List Byte) (x : Detail) (s : State) :
    (respond c d x s).answers = s.answers := rfl
@[simp] theorem respond_resetIn (c : RespCode) (d : List Byte) (x : Detail) (s : State) :
    (respond c d x s).resetIn = s.resetIn := rfl
@[simp] theorem respond_trace (c : RespCode) (d : List Byte) (x : Detail) (s : State) :
    (respond c d x s).trace = s.trace ++ [.response c d x] := rfl

/-! ### takeError -/

@[simp] theorem takeError_pwr (c : RespCode) (s : State) :
    (takeError c s).pwr = if fatal c then .failed else s.pwr := rfl
@[simp] theorem takeError_budget (c : RespCode) (s : State) : (takeError c s).budget = s.budget := rfl
@[simp] theorem takeError_seq (c : RespCode) (s : State) : (takeError c s).seq = .idle := rfl
@[simp] theorem takeError_cnt (c : RespCode) (s : State) : (takeError c s).cnt = 0 := rfl
@[simp] theorem takeError_len (c : RespCode) (s : State) : (takeError c s).len = 0#32 := rfl
@[simp] theorem takeError_buf (c : RespCode) (s : State) : (takeError c s).buf = [] := rfl
@[simp] theorem takeError_port (c : RespCode) (s : State) : (takeError c s).port = s.port := rfl
@[simp] theorem takeError_answers (c : RespCode) (s : State) : (takeError c s).answers = s.answers := rfl
@[simp] theorem takeError_resetIn (c : RespCode) (s : State) : (takeError c s).resetIn = s.resetIn := rfl
@[simp] theorem takeError_trace (c : RespCode) (s : State) :
    (takeError c s).trace = s.trace ++ [.response c [] .none] := rfl

/-! ### busFail -/

@[simp] theorem busFail_pwr (s : State) : (busFail s).pwr = .failed := rfl
@[simp] theorem busFail_budget (s : State) : (busFail s).budget = s.budget := rfl
@[simp] theorem busFail_seq (s : State) : (busFail s).seq = .idle := rfl
@[simp] theorem busFail_cnt (s : State) : (busFail s).cnt = 0 := rfl
@[simp] theorem busFail_len (s : State) : (busFail s).len = 0#32 := rfl
@[simp] theorem busFail_buf (s : State) : (busFail s).buf = [] := rfl
@[simp] theorem busFail_port (s : State) : (busFail s).port = s.port := rfl
@[simp] theorem busFail_answers (s : State) : (busFail s).answers = s.answers := rfl
@[simp] theorem busFail_resetIn (s : State) : (busFail s).resetIn = s.resetIn := rfl
@[simp] theorem busFail_trace (s : State) : (busFail s).trace = s.trace ++ [.response .busUnavailable [] .none] := rfl

/-! ### endSession -/

@[simp] theorem endSession_pwr (P : Params) (c : RespCode) (s : State) : (endSession P c s).pwr = .off := rfl
@[simp] theorem endSession_budget (P : Params) (c : RespCode) (s : State) :
    (endSession P c s).budget = P.pwrAttempts := rfl
@[simp] theorem endSession_seq (P : Params) (c : RespCode) (s : State) : (endSession P c s).seq = .idle := rfl
@[simp] theorem endSession_cnt (P : Params) (c : RespCode) (s : State) : (endSession P c s).cnt = 0 := rfl
@[simp] theorem endSession_len (P : Params) (c : RespCode) (s : State) : (endSession P c s).len = 0#32 := rfl
@[simp] theorem endSession_buf (P : Params) (c : RespCode) (s : State) : (endSession P c s).buf = [] := rfl
@[simp] theorem endSession_port (P : Params) (c : RespCode) (s : State) : (endSession P c s).port = s.port := rfl
@[simp] theorem endSession_answers (P : Params) (c : RespCode) (s : State) :
    (endSession P c s).answers = s.answers := rfl
@[simp] theorem endSession_resetIn (P : Params) (c : RespCode) (s : State) :
    (endSession P c s).resetIn = s.resetIn := rfl
@[simp] theorem endSession_trace (P : Params) (c : RespCode) (s : State) :
    (endSession P c s).trace = s.trace ++ [.response c [] .none] := rfl

/-! ### assertReset -/

@[simp] theorem assertReset_pwr (P : Params) (s : State) : (assertReset P s).pwr = .off := rfl
@[simp] theorem assertReset_budget (P : Params) (s : State) : (assertReset P s).budget = P.pwrAttempts := rfl
@[simp] theorem assertReset_seq (P : Params) (s : State) : (assertReset P s).seq = .idle := rfl
@[simp] theorem assertReset_cnt (P : Params) (s : State) : (assertReset P s).cnt = 0 := rfl
@[simp] theorem assertReset_len (P : Params) (s : State) : (assertReset P s).len = 0#32 := rfl
@[simp] theorem assertReset_buf (P : Params) (s : State) : (assertReset P s).buf = [] := rfl
@[simp] theorem assertReset_port (P : Params) (s : State) : (assertReset P s).port = s.port := rfl
@[simp] theorem assertReset_answers (P : Params) (s : State) : (assertReset P s).answers = s.answers := rfl
@[simp] theorem assertReset_resetIn (P : Params) (s : State) : (assertReset P s).resetIn = s.resetIn := rfl
@[simp] theorem assertReset_trace (P : Params) (s : State) : (assertReset P s).trace = s.trace := rfl

/-! ### tick -/

@[simp] theorem tick_pwr (s : State) : (tick s).pwr = s.pwr := rfl
@[simp] theorem tick_budget (s : State) : (tick s).budget = s.budget := rfl
@[simp] theorem tick_seq (s : State) : (tick s).seq = s.seq := rfl
@[simp] theorem tick_cnt (s : State) : (tick s).cnt = s.cnt := rfl
@[simp] theorem tick_len (s : State) : (tick s).len = s.len := rfl
@[simp] theorem tick_buf (s : State) : (tick s).buf = s.buf := rfl
@[simp] theorem tick_port (s : State) : (tick s).port = s.port := rfl
@[simp] theorem tick_answers (s : State) : (tick s).answers = s.answers := rfl
@[simp] theorem tick_resetIn (s : State) : (tick s).resetIn = s.resetIn.tail := rfl
@[simp] theorem tick_trace (s : State) : (tick s).trace = s.trace := rfl

/-! ### takeCommand -/

@[simp] theorem takeCommand_pwr (s : State) : (takeCommand s).pwr = s.pwr := rfl
@[simp] theorem takeCommand_budget (s : State) : (takeCommand s).budget = s.budget := rfl
@[simp] theorem takeCommand_seq (s : State) : (takeCommand s).seq = s.seq := rfl
@[simp] theorem takeCommand_cnt (s : State) : (takeCommand s).cnt = s.cnt := rfl
@[simp] theorem takeCommand_len (s : State) : (takeCommand s).len = s.len := rfl
@[simp] theorem takeCommand_buf (s : State) : (takeCommand s).buf = s.buf := rfl
@[simp] theorem takeCommand_port (s : State) : (takeCommand s).port = s.port.tail := rfl
@[simp] theorem takeCommand_answers (s : State) : (takeCommand s).answers = s.answers := rfl
@[simp] theorem takeCommand_resetIn (s : State) : (takeCommand s).resetIn = s.resetIn := rfl
@[simp] theorem takeCommand_trace (s : State) : (takeCommand s).trace = s.trace := rfl

/-! ### afterExchange -/

@[simp] theorem afterExchange_pwr (out : List Byte) (s : State) : (afterExchange out s).pwr = s.pwr := rfl
@[simp] theorem afterExchange_budget (out : List Byte) (s : State) : (afterExchange out s).budget = s.budget := rfl
@[simp] theorem afterExchange_seq (out : List Byte) (s : State) : (afterExchange out s).seq = s.seq := rfl
@[simp] theorem afterExchange_cnt (out : List Byte) (s : State) : (afterExchange out s).cnt = s.cnt := rfl
@[simp] theorem afterExchange_len (out : List Byte) (s : State) : (afterExchange out s).len = s.len := rfl
@[simp] theorem afterExchange_buf (out : List Byte) (s : State) : (afterExchange out s).buf = s.buf := rfl
@[simp] theorem afterExchange_port (out : List Byte) (s : State) : (afterExchange out s).port = s.port := rfl
@[simp] theorem afterExchange_answers (out : List Byte) (s : State) :
    (afterExchange out s).answers = s.answers.tail := rfl
@[simp] theorem afterExchange_resetIn (out : List Byte) (s : State) : (afterExchange out s).resetIn = s.resetIn := rfl
@[simp] theorem afterExchange_trace (out : List Byte) (s : State) :
    (afterExchange out s).trace = s.trace ++ [.exchange out (answerFor out s)] := rfl

/-! ### delay -/

@[simp] theorem delay_pwr (P : Params) (s : State) : (delay P s).pwr = s.pwr := rfl
@[simp] theorem delay_budget (P : Params) (s : State) : (delay P s).budget = s.budget := rfl
@[simp] theorem delay_seq (P : Params) (s : State) : (delay P s).seq = s.seq := rfl
@[simp] theorem delay_cnt (P : Params) (s : State) : (delay P s).cnt = s.cnt := rfl
@[simp] theorem delay_len (P : Params) (s : State) : (delay P s).len = s.len := rfl
@[simp] theorem delay_buf (P : Params) (s : State) : (delay P s).buf = s.buf := rfl
@[simp] theorem delay_port (P : Params) (s : State) : (delay P s).port = s.port := rfl
@[simp] theorem delay_answers (P : Params) (s : State) : (delay P s).answers = s.answers := rfl
@[simp] theorem delay_resetIn (P : Params) (s : State) : (delay P s).resetIn = s.resetIn := rfl
@[simp] theorem delay_trace (P : Params) (s : State) :
    (delay P s).trace = s.trace ++ [.delay P.attemptInterval] := rfl

/-! ### delayStep -/

@[simp] theorem delayStep_pwr (P : Params) (site : PollSite) (s : State) : (delayStep P site s).pwr = s.pwr := rfl
@[simp] theorem delayStep_budget (P : Params) (site : PollSite) (s : State) :
    (delayStep P site s).budget = s.budget := rfl
@[simp] theorem delayStep_seq (P : Params) (site : PollSite) (s : State) :
    (delayStep P site s).seq = siteStat site := rfl
@[simp] theorem delayStep_cnt (P : Params) (site : PollSite) (s : State) : (delayStep P site s).cnt = s.cnt := rfl
@[simp] theorem delayStep_len (P : Params) (site : PollSite) (s : State) : (delayStep P site s).len = s.len := rfl
@[simp] theorem delayStep_buf (P : Params) (site : PollSite) (s : State) : (delayStep P site s).buf = s.buf := rfl
@[simp] theorem delayStep_port (P : Params) (site : PollSite) (s : State) : (delayStep P site s).port = s.port := rfl
@[simp] theorem delayStep_answers (P : Params) (site : PollSite) (s : State) :
    (delayStep P site s).answers = s.answers := rfl
@[simp] theorem delayStep_resetIn (P : Params) (site : PollSite) (s : State) :
    (delayStep P site s).resetIn = s.resetIn := rfl
@[simp] theorem delayStep_trace (P : Params) (site : PollSite) (s : State) :
    (delayStep P site s).trace = s.trace ++ [.delay P.attemptInterval] := rfl

/-! ### loadCounter -/

@[simp] theorem loadCounter_pwr (site : PollSite) (n : Nat) (s : State) :
    (loadCounter site n s).pwr = s.pwr := by cases site <;> rfl
@[simp] theorem loadCounter_seq (site : PollSite) (n : Nat) (s : State) :
    (loadCounter site n s).seq = s.seq := by cases site <;> rfl
@[simp] theorem loadCounter_len (site : PollSite) (n : Nat) (s : State) :
    (loadCounter site n s).len = s.len := by cases site <;> rfl
@[simp] theorem loadCounter_buf (site : PollSite) (n : Nat) (s : State) :
    (loadCounter site n s).buf = s.buf := by cases site <;> rfl
@[simp] theorem loadCounter_port (site : PollSite) (n : Nat) (s : State) :
    (loadCounter site n s).port = s.port := by cases site <;> rfl
@[simp] theorem loadCounter_answers (site : PollSite) (n : Nat) (s : State) :
    (loadCounter site n s).answers = s.answers := by cases site <;> rfl
@[simp] theorem loadCounter_resetIn (site : PollSite) (n : Nat) (s : State) :
    (loadCounter site n s).resetIn = s.resetIn := by cases site <;> rfl
@[simp] theorem loadCounter_trace (site : PollSite) (n : Nat) (s : State) :
    (loadCounter site n s).trace = s.trace := by cases site <;> rfl

/-! ### spendAttempt -/

@[simp] theorem spendAttempt_pwr (site : PollSite) (s : State) :
    (spendAttempt site s).pwr = s.pwr := by cases site <;> rfl
@[simp] theorem spendAttempt_seq (site : PollSite) (s : State) :
    (spendAttempt site s).seq = s.seq := by cases site <;> rfl
@[simp] theorem spendAttempt_len (site : PollSite) (s : State) :
    (spendAttempt site s).len = s.len := by cases site <;> rfl
@[simp] theorem spendAttempt_buf (site : PollSite) (s : State) :
    (spendAttempt site s).buf = s.buf := by cases site <;> rfl
@[simp] theorem spendAttempt_port (site : PollSite) (s : State) :
    (spendAttempt site s).port = s.port := by cases site <;> rfl
@[simp] theorem spendAttempt_answers (site : PollSite) (s : State) :
    (spendAttempt site s).answers = s.answers := by cases site <;> rfl
@[simp] theorem spendAttempt_resetIn (site : PollSite) (s : State) :
    (spendAttempt site s).resetIn = s.resetIn := by cases site <;> rfl
@[simp] theorem spendAttempt_trace (site : PollSite) (s : State) :
    (spendAttempt site s).trace = s.trace := by cases site <;> rfl

/-! ### The counters of the poll sites -/

@[simp] theorem remaining_loadCounter (site : PollSite) (n : Nat) (s : State) :
    remaining site (loadCounter site n s) = n := by cases site <;> rfl

@[simp] theorem remaining_spendAttempt (site : PollSite) (s : State) :
    remaining site (spendAttempt site s) = remaining site s - 1 := by cases site <;> rfl

theorem loadCounter_budget (site : PollSite) (n : Nat) (s : State) :
    (loadCounter site n s).budget = if site = .init then n else s.budget := by cases site <;> rfl

theorem loadCounter_cnt (site : PollSite) (n : Nat) (s : State) :
    (loadCounter site n s).cnt = if site = .init then s.cnt else n := by cases site <;> rfl

theorem spendAttempt_budget (site : PollSite) (s : State) :
    (spendAttempt site s).budget = if site = .init then s.budget - 1 else s.budget := by cases site <;> rfl

theorem spendAttempt_cnt (site : PollSite) (s : State) :
    (spendAttempt site s).cnt = if site = .init then s.cnt else s.cnt - 1 := by cases site <;> rfl

end Sys2Proof.Machine
end

