-- ==== Sys2Proof/Laws/Invariant.lean ====
section
/-! SUPPORT. The legal states of `Inv`: an idle block with its scratch registers cleared, and what `Inv` does not look at. -/

namespace Sys2Proof.Machine

/-- An idle block with cleared scratch registers is legal when its budget is and no handshake is half done. -/
theorem inv_of_idle {P : Params} {t : State} (hs : t.seq = .idle) (hc : t.cnt = 0) (hl : t.len = 0#32) (hb : t.buf = [])
    (h1 : t.budget ≤ P.pwrAttempts) (h2 : t.pwr = .off → t.budget = P.pwrAttempts) (h3 : t.pwr ≠ .poweringOn) :
    Inv P t := by
  constructor <;> simp_all [siteOf, siteOfWait, siteOfStat, modeFits, inWrite, afterAvailable, afterFreeSpace]

/-- `Inv` looks at the block's six elements alone, not at the inputs or the record. -/
theorem inv_congr {P : Params} {s t : State} (h : Inv P s) (h1 : t.pwr = s.pwr) (h2 : t.budget = s.budget)
    (h3 : t.seq = s.seq) (h4 : t.cnt = s.cnt) (h5 : t.len = s.len) (h6 : t.buf = s.buf) : Inv P t := by
  obtain ⟨a, b, c, d, e, f, g, i, j⟩ := h
  have hr : ∀ site, remaining site t = remaining site s := by intro site; cases site <;> simp [remaining, h2, h4]
  constructor <;> simp only [h1, h2, h3, h4, h5, h6, hr] <;> assumption

end Sys2Proof.Machine
end

