-- ==== Sys2Proof/Laws/Ops.lean ====
section
/-! SUPPORT. The exchange, said once: the answer has the frame's length, depends on the script and the history alone, and
an exchange either fails or goes on with it. -/

namespace Sys2Proof.Machine

theorem freeAnswer_length {history : List Event} {out inn : List Byte} (h : freeAnswer history out = some inn) :
    inn.length = out.length := by
  unfold freeAnswer at h
  cases ht : Config.transport history out <;> simp [ht] at h
  simp [← h]

/-- "the returned sequence has exactly N bytes" (R50). -/
theorem answerFor_length {out inn : List Byte} {s : State} (h : answerFor out s = some inn) :
    inn.length = out.length := by
  unfold answerFor at h
  split at h
  · cases h
  · split at h
    · cases h; assumption
    · exact freeAnswer_length h
  · exact freeAnswer_length h

/-- The answer depends on the script and the history alone (R52). -/
theorem answerFor_congr {out : List Byte} {s t : State} (ha : s.answers = t.answers) (ht : s.trace = t.trace) :
    answerFor out s = answerFor out t := by
  unfold answerFor; rw [ha, ht]

@[simp] theorem answerFor_spendAttempt (out : List Byte) (site : PollSite) (s : State) :
    answerFor out (spendAttempt site s) = answerFor out s := answerFor_congr (by simp) (by simp)

@[simp] theorem answerFor_tick (out : List Byte) (s : State) : answerFor out (tick s) = answerFor out s := rfl

/-- A scripted answer of the right length is the answer. -/
theorem answerFor_of_cons {out bytes : List Byte} {rest : List Answer} {s : State} (h : s.answers = .ok bytes :: rest)
    (hl : bytes.length = out.length) : answerFor out s = some bytes := by
  unfold answerFor; rw [h]; simp [hl]

theorem exchange_of_some {out inn : List Byte} {f : State → State} {g : List Byte → State → State} {s : State}
    (h : answerFor out s = some inn) : exchange out f g s = g inn (afterExchange out s) := by
  unfold exchange; rw [h]

theorem exchange_of_none {out : List Byte} {f : State → State} {g : List Byte → State → State} {s : State}
    (h : answerFor out s = none) : exchange out f g s = f (afterExchange out s) := by
  unfold exchange; rw [h]

/-- Everything an exchange can do. -/
theorem exchange_cases (out : List Byte) (f : State → State) (g : List Byte → State → State) (s : State) :
    (answerFor out s = none ∧ exchange out f g s = f (afterExchange out s)) ∨
    ∃ inn, answerFor out s = some inn ∧ inn.length = out.length ∧ exchange out f g s = g inn (afterExchange out s) := by
  cases h : answerFor out s with
  | none => exact .inl ⟨rfl, exchange_of_none h⟩
  | some inn => exact .inr ⟨inn, rfl, answerFor_length h, exchange_of_some h⟩

/-- Bytes that a response has are read from it (R89). -/
theorem byteAt_of_lt {inn : List Byte} {i : Nat} (h : i < inn.length) : byteAt inn i = inn[i] := by
  simp [byteAt, List.getD_eq_getElem?_getD, h]

end Sys2Proof.Machine
end

