-- ==== Sys2Proof/Laws/PerInstr.lean ====
section
/-! SUPPORT. The shape of every instruction's words, one lemma per constructor: byte 0 and the length of a bus frame
(30_encoding.md R88, R81 to R85), the code of a host command (R91). -/

namespace Sys2Proof.Laws.FrameShape

/-- The opcode and the number of bytes of an instruction's frame, as the opcode table gives them; none for POLL and the host
commands. -/
def frameShape : Instr → Option (Opcode × Nat)
  | .statusRead => some (.statusRead, 2)
  | .configRead _ _ => some (.configRead, 9)
  | .configWrite _ _ => some (.configWrite, 9)
  | .dataRead count => some (.dataRead, 1 + count.toNat)
  | .dataWrite payload => some (.dataWrite, 1 + payload.length)
  | .powerOn => some (.powerOn, 1)
  | .powerOff => some (.powerOff, 1)
  | .poll _ _ | .init | .read | .write _ | .release => none

/-- The code of a host command, as the opcode table gives it. -/
def commandCode : Instr → Option (BitVec 2)
  | .init => some 0#2
  | .read => some 1#2
  | .write _ => some 2#2
  | .release => some 3#2
  | .statusRead | .configRead _ _ | .configWrite _ _ | .dataRead _ | .dataWrite _ | .powerOn | .powerOff | .poll _ _ => none

/-- An encoded word has the shape of its table row. -/
def Shaped (P : Params) (i : Instr) : Encoded → Prop
  | .frame bytes => ∃ o n, frameShape i = some (o, n) ∧ bytes.head? = some (P.opcode o) ∧ bytes.length = n
  | .command word => commandCode i = some word.code

/-- Every word that encodes the instruction has the shape of its table row, and a well-formed instruction other than POLL
has a word. -/
def Statement (i : Instr) : Prop :=
  ∀ P : Params, (∀ w, encode P i = some w → Shaped P i w) ∧
    (i.wf = true → (∃ w, encode P i = some w) ∨ ∃ flag n, i = .poll flag n)

/-- An instruction with a word of the right shape. -/
theorem of_word {P : Params} {i : Instr} {w : Encoded} (h : encode P i = some w) (hs : Shaped P i w) :
    (∀ w, encode P i = some w → Shaped P i w) ∧
      (i.wf = true → (∃ w, encode P i = some w) ∨ ∃ flag n, i = .poll flag n) := by
  refine ⟨fun w' h' => ?_, fun _ => .inl ⟨w, h⟩⟩
  rw [h] at h'; cases h'; exact hs

theorem statusRead : Statement .statusRead := fun _ => of_word rfl ⟨_, _, rfl, rfl, rfl⟩

theorem configRead (address length : U32) : Statement (.configRead address length) := by
  intro P
  by_cases h : length = 0#32
  · subst h
    exact ⟨fun w hw => by simp [encode, encConfigRead, encConfig, Except.toOption] at hw,
      fun hw => by simp [Instr.wf] at hw⟩
  · refine of_word (w := .frame (P.opcode .configRead :: (le32 address ++ le32 (length - 1#32)))) ?_
      ⟨_, _, rfl, rfl, rfl⟩
    simp [encode, encConfigRead, encConfig_of_ne h, Except.toOption]

theorem configWrite (address length : U32) : Statement (.configWrite address length) := by
  intro P
  by_cases h : length = 0#32
  · subst h
    exact ⟨fun w hw => by simp [encode, encConfigWrite, encConfig, Except.toOption] at hw,
      fun hw => by simp [Instr.wf] at hw⟩
  · refine of_word (w := .frame (P.opcode .configWrite :: (le32 address ++ le32 (length - 1#32)))) ?_
      ⟨_, _, rfl, rfl, rfl⟩
    simp [encode, encConfigWrite, encConfig_of_ne h, Except.toOption]

theorem dataRead (count : U32) : Statement (.dataRead count) := fun P =>
  of_word rfl ⟨_, _, rfl, rfl, by rw [encDataRead_length, Nat.add_comm]⟩

theorem dataWrite (payload : List Byte) : Statement (.dataWrite payload) := fun P =>
  of_word rfl ⟨_, _, rfl, rfl, by rw [encDataWrite_length, Nat.add_comm]⟩

theorem powerOn : Statement .powerOn := fun _ => of_word rfl ⟨_, _, rfl, rfl, rfl⟩

theorem powerOff : Statement .powerOff := fun _ => of_word rfl ⟨_, _, rfl, rfl, rfl⟩

theorem poll (flag : Byte) (attempts : Nat) : Statement (.poll flag attempts) := fun _ =>
  ⟨fun _ hw => (nomatch hw), fun _ => .inr ⟨flag, attempts, rfl⟩⟩

theorem init : Statement .init := fun _ => of_word rfl rfl

theorem read : Statement .read := fun _ => of_word rfl rfl

theorem write (payload : List Byte) : Statement (.write payload) := fun _ => of_word rfl rfl

theorem release : Statement .release := fun _ => of_word rfl rfl

end Sys2Proof.Laws.FrameShape
end

