-- ==== Sys2Proof/Laws/Poller.lean ====
section
/-! SUPPORT. The poller: one turn of the loop of R130, and the counter's independence of everything else. -/

namespace Sys2Proof.Machine

/-- A site's counter is `budget` or `cnt`, so an exchange leaves it. -/
@[simp] theorem remaining_afterExchange (site : PollSite) (out : List Byte) (s : State) :
    remaining site (afterExchange out s) = remaining site s := by cases site <;> rfl

@[simp] theorem remaining_delay (P : Params) (site : PollSite) (s : State) :
    remaining site (delay P s) = remaining site s := by cases site <;> rfl

/-- A counter loaded with what it holds is the counter. -/
@[simp] theorem loadCounter_remaining (site : PollSite) (s : State) : loadCounter site (remaining site s) s = s := by
  cases site <;> rfl

/-- One turn of the loop: delay, decrement, exchange, test. -/
theorem pollLoop_succ (P : Params) (site : PollSite) (flag : Byte) (done n : Nat) (s : State) :
    pollLoop P site flag done (n + 1) s =
      match answerFor (encStatusRead P) (delay P s) with
      | none => (.busFailed, afterExchange (encStatusRead P) (spendAttempt site (delay P s)))
      | some inn =>
        if hit (statusByte inn) flag then
          (.success (done + 1), afterExchange (encStatusRead P) (spendAttempt site (delay P s)))
        else pollLoop P site flag (done + 1) n (afterExchange (encStatusRead P) (spendAttempt site (delay P s))) := by
  rw [pollLoop]
  simp only [answerFor_spendAttempt]
  all_goals rfl

/-- A poll changes the site's counter, the script and the record, and nothing else (R130). -/
theorem pollLoop_frame (P : Params) (site : PollSite) (flag : Byte) (done n : Nat) (s : State) :
    (pollLoop P site flag done n s).2.pwr = s.pwr ∧ (pollLoop P site flag done n s).2.seq = s.seq ∧
    (pollLoop P site flag done n s).2.len = s.len ∧ (pollLoop P site flag done n s).2.buf = s.buf ∧
    (pollLoop P site flag done n s).2.port = s.port ∧ (pollLoop P site flag done n s).2.resetIn = s.resetIn := by
  induction n generalizing done s with
  | zero => exact ⟨rfl, rfl, rfl, rfl, rfl, rfl⟩
  | succ n ih =>
    rw [pollLoop_succ]
    cases answerFor (encStatusRead P) (delay P s) with
    | none => simp
    | some inn =>
      by_cases h : hit (statusByte inn) flag = true
      · simp [h]
      · simpa [h] using ih (done + 1) (afterExchange (encStatusRead P) (spendAttempt site (delay P s)))

/-- The error of a failed exchange, in one piece (R164). -/
theorem exchange_busFail {out : List Byte} {g : List Byte → State → State} {s : State} (h : answerFor out s = none) :
    exchange out busFail g s =
      { s with pwr := .failed, seq := .idle, cnt := 0, len := 0#32, buf := [], answers := s.answers.tail,
               trace := s.trace ++ [.exchange out none, .response .busUnavailable [] .none] } := by
  simp [exchange_of_none h, busFail, takeError, respond, fatal, afterExchange, h]

end Sys2Proof.Machine
end

