-- ==== Sys2Proof/Laws/Step.lean ====
section
/-! SUPPORT. What a step can do, said once: which instruction or delay each phase is, and the six kinds of step. -/

namespace Sys2Proof.Machine

@[simp] theorem siteOfWait_siteWait (site : PollSite) : siteOfWait (siteWait site) = some site := by cases site <;> rfl
@[simp] theorem siteOfStat_siteStat (site : PollSite) : siteOfStat (siteStat site) = some site := by cases site <;> rfl

theorem siteOfWait_eq_some {p : Phase} {site : PollSite} : siteOfWait p = some site ↔ p = siteWait site := by
  cases p <;> cases site <;> simp [siteOfWait, siteWait]

theorem siteOfStat_eq_some {p : Phase} {site : PollSite} : siteOfStat p = some site ↔ p = siteStat site := by
  cases p <;> cases site <;> simp [siteOfStat, siteStat]

/-- A step, by what is fetched. -/
theorem step_of_fetch_wait {s : State} {site : PollSite} (h : fetch Config.params s = .wait site) :
    step s = .next (delayStep Config.params site (tick s)) := by unfold step; rw [h]

theorem step_of_fetch_frame {s : State} {i : Instr} (h : fetch Config.params s = .frame i) :
    step s = exec i (tick s) := by unfold step; rw [h]

theorem step_of_fetch_command {s : State} {i : Instr} (h : fetch Config.params s = .command i) :
    step s = exec i (takeCommand (tick s)) := by unfold step; rw [h]

theorem step_of_fetch_reset {s : State} (h : fetch Config.params s = .reset) :
    step s = .next (assertReset Config.params (tick s)) := by unfold step; rw [h]

theorem step_of_fetch_waitHost {s : State} (h : fetch Config.params s = .waitHost) :
    step s = .next (tick s) := by unfold step; rw [h]

/-- What `fetch` answers says of the state. -/
theorem fetch_cases (P : Params) (s : State) :
    (fetch P s = .reset ∧ s.resetIn.head? = some true) ∨
    (s.resetIn.head? ≠ some true ∧
      ((∃ site, fetch P s = .wait site ∧ s.seq = siteWait site) ∨
       (∃ i, fetch P s = .frame i ∧ phaseFrame P s = some i) ∨
       (s.seq = .idle ∧ fetch P s = fetchCommand s))) := by
  unfold fetch
  by_cases hr : s.resetIn.head? = some true
  · left; simp [hr]
  · right
    refine ⟨hr, ?_⟩
    simp only [hr, if_false]
    cases hw : siteOfWait s.seq with
    | some site => exact .inl ⟨site, rfl, siteOfWait_eq_some.mp hw⟩
    | none =>
      right
      cases hf : phaseFrame P s with
      | some i => exact .inl ⟨i, rfl, rfl⟩
      | none =>
        right
        refine ⟨?_, rfl⟩
        cases hs : s.seq <;> simp_all [phaseFrame, siteOfWait]

/-- Everything a step that answers a next state can be: reset, waiting for the host, a delay, a frame of the command in
progress, or the acceptance of a command. -/
theorem step_cases {s t : State} (h : step s = .next t) :
    (s.resetIn.head? = some true ∧ t = assertReset Config.params (tick s)) ∨
    (s.seq = .idle ∧ s.port = [] ∧ t = tick s) ∨
    (∃ site, s.seq = siteWait site ∧ t = delayStep Config.params site (tick s)) ∨
    (∃ i, phaseFrame Config.params s = some i ∧ exec i (tick s) = .next t) ∨
    (∃ w rest i, s.seq = .idle ∧ s.port = w :: rest ∧ decodeCommand w = .ok i ∧
      exec i (takeCommand (tick s)) = .next t) := by
  rcases fetch_cases Config.params s with ⟨hf, hr⟩ | ⟨-, ⟨site, hf, hs⟩ | ⟨i, hf, hp⟩ | ⟨hs, hf⟩⟩
  · rw [step_of_fetch_reset hf] at h; cases h; exact .inl ⟨hr, rfl⟩
  · rw [step_of_fetch_wait hf] at h; cases h; exact .inr (.inr (.inl ⟨site, hs, rfl⟩))
  · rw [step_of_fetch_frame hf] at h; exact .inr (.inr (.inr (.inl ⟨i, hp, h⟩)))
  · unfold fetchCommand at hf
    cases hp : s.port with
    | nil => rw [hp] at hf; rw [step_of_fetch_waitHost hf] at h; cases h; exact .inr (.inl ⟨hs, rfl, rfl⟩)
    | cons w rest =>
      rw [hp] at hf
      cases hd : decodeCommand w with
      | error e => simp only [hd] at hf; simp [step, hf] at h
      | ok i =>
        simp only [hd] at hf
        rw [step_of_fetch_command hf] at h
        exact .inr (.inr (.inr (.inr ⟨w, rest, i, hs, rfl, hd, h⟩)))

/-! ### The frame of a phase -/

theorem phaseFrame_tick (P : Params) (s : State) : phaseFrame P (tick s) = phaseFrame P s := rfl

/-- A status phase's frame is one attempt of its poll. -/
theorem exec_statusRead_of_site {s : State} {site : PollSite} (hs : s.seq = siteStat site) :
    exec .statusRead s = .next (statusAttempt Config.params site s) := by
  simp only [exec, execStatusRead, statusReadWith, siteOfStat_eq_some.mpr hs]

/-- The poll and the config frame of the three phases that issue a config-read. -/
def IssuesConfigRead (s : State) (site : PollSite) (reg : Register) (l : U32) : Prop :=
  (s.seq = .rCfgL ∧ site = .read2 ∧ reg = .txLen ∧ l = 4#32) ∨
  (s.seq = .rCfgB ∧ site = .read5 ∧ reg = .txBuf ∧ l = s.len) ∨
  (s.seq = .wCfgL ∧ site = .write2 ∧ reg = .rxLen ∧ l = 4#32)

/-- Everything the frame of a phase can do (R24): nine shapes, each with its next state. -/
theorem exec_phaseFrame_cases {s t : State} {i : Instr} (hi : phaseFrame Config.params s = some i)
    (h : exec i s = .next t) :
    (∃ site, s.seq = siteStat site ∧ i = .statusRead ∧ t = statusAttempt Config.params site s) ∨
    (s.seq = .pOn ∧ i = .powerOn ∧
      t = exchange (encPowerOn Config.params) busFail (fun _ => beginPoll Config.params .init) s) ∨
    (∃ site reg l, IssuesConfigRead s site reg l ∧ i = .configRead (Config.params.address reg) l ∧
      t = configPhase Config.params site (encConfigRead Config.params (Config.params.address reg) l) s) ∨
    (s.seq = .wCfgB ∧ i = .configWrite (Config.params.address .rxBuf) (bufLength s) ∧
      t = configPhase Config.params .write5
        (encConfigWrite Config.params (Config.params.address .rxBuf) (bufLength s)) s) ∨
    (s.seq = .rDatL ∧ i = .dataRead 4#32 ∧ t = exchange (encDataRead Config.params 4#32) busFail takeAvailable s) ∨
    (s.seq = .wDatL ∧ i = .dataRead 4#32 ∧ t = exchange (encDataRead Config.params 4#32) busFail takeFreeSpace s) ∨
    (s.seq = .rDatB ∧ i = .dataRead s.len ∧
      t = exchange (encDataRead Config.params s.len) busFail
        (fun inn => respond .ok (dataField s.len inn) .none) s) ∨
    (s.seq = .wData ∧ i = .dataWrite s.buf ∧
      t = exchange (encDataWrite Config.params s.buf) busFail (fun _ => beginPoll Config.params .write7) s) ∨
    (s.seq = .xOff ∧ i = .powerOff ∧
      t = exchange (encPowerOff Config.params) (endSession Config.params .busUnavailable)
        (fun _ => endSession Config.params .ok) s) := by
  have stat : ∀ site, s.seq = siteStat site → i = .statusRead →
      ∃ site, s.seq = siteStat site ∧ i = .statusRead ∧ t = statusAttempt Config.params site s := by
    rintro site hs rfl
    rw [exec_statusRead_of_site hs] at h
    cases h; exact ⟨site, hs, rfl, rfl⟩
  unfold phaseFrame at hi
  unfold IssuesConfigRead
  revert hi
  cases hs : s.seq <;> simp only [Option.some.injEq, reduceCtorEq, false_implies] <;> rintro rfl
  case pStat => rw [← hs]; exact .inl (stat .init hs rfl)
  case rStat1 => rw [← hs]; exact .inl (stat .read2 hs rfl)
  case rStat2 => rw [← hs]; exact .inl (stat .read5 hs rfl)
  case wStat1 => rw [← hs]; exact .inl (stat .write2 hs rfl)
  case wStat2 => rw [← hs]; exact .inl (stat .write5 hs rfl)
  case wStat3 => rw [← hs]; exact .inl (stat .write7 hs rfl)
  all_goals
    right
    simp only [exec, execConfigRead, configReadWith, siteAfterConfigRead, execConfigWrite, configWriteWith,
      siteAfterConfigWrite, execDataRead, dataReadWith, execDataWrite, dataWriteWith, execPowerOn, powerOnWith,
      execPowerOff, powerOffWith, hs, Host.Outcome.next.injEq] at h
    subst h
    simp

/-- The four commands, and the bound of a WRITE's payload (R91). -/
theorem decodeCommand_cases {w : PortWord} {i : Instr} (h : decodeCommand w = .ok i) :
    i = .init ∨ i = .read ∨ (i = .write w.payload ∧ w.payload.length < 2 ^ 32) ∨ i = .release := by
  unfold decodeCommand at h
  split at h
  · cases h; exact .inl rfl
  split at h
  · cases h; exact .inr (.inl rfl)
  split at h
  · split at h
    · rename_i hl; cases h; exact .inr (.inr (.inl ⟨rfl, by simpa [payloadFits] using hl⟩))
    · cases h
  · cases h; exact .inr (.inr (.inr rfl))

/-- A run begins with a step, on any machine. -/
theorem core_run_succ (M : Host.Core) {k : Nat} {s t : M.State} (h : M.step s = .next t) :
    M.run (k + 1) s = M.run k t := by simp [Host.Core.run, h]

/-- A run begins with a step. -/
theorem run_succ {k : Nat} {s t : State} (h : step s = .next t) : run (k + 1) s = run k t :=
  core_run_succ Sys2Proof.core h

@[simp] theorem run_zero (s : State) : run 0 s = .next s := rfl

end Sys2Proof.Machine
end

