-- ==== Sys2Proof/Tests/Slice0.lean ====
section
/-! SUPPORT. Tests: expected values from spec/95_test_vectors.md (under its reference set REFCFG, the defaults of `Params`) and
from the tables of the rules; and, for every statement with hypotheses, a state and operands that meet them together. -/

namespace Sys2Proof.Tests

open Sys2Proof Sys2Proof.Machine

/-- REFCFG of 92_eei_decisions.md D28. -/
def ref : Params := {}

/-- An idle block in `On` after a handshake of one attempt, nothing presented and nothing recorded. -/
def ready : State where
  pwr := .on
  budget := 4
  seq := .idle
  cnt := 0
  len := 0#32
  buf := []
  port := []
  answers := []
  resetIn := []
  trace := []

/-- The next state, if there is one. -/
def nextOf : Host.Outcome State Fault Refusal → Option State
  | .next t => some t
  | .fault _ => none
  | .refused _ => none

/-- A field of the next state. -/
def field {α : Type} (f : State → α) (o : Host.Outcome State Fault Refusal) : Option α := (nextOf o).map f

/-! ### Well-formedness: one ill-formed term per check -/

theorem test_wf_refuses_configRead_0 : (Instr.configRead 8#32 0#32).wf = false := by decide
theorem test_wf_refuses_configWrite_0 : (Instr.configWrite 8#32 0#32).wf = false := by decide
theorem test_wf_refuses_long_payloads (p : List Byte) (h : p.length = 2 ^ 32) :
    (Instr.dataWrite p).wf = false ∧ (Instr.write p).wf = false := by
  simp [Instr.wf, payloadFits, h]
theorem test_wf_long_payload_exists : ∃ p : List Byte, p.length = 2 ^ 32 :=
  ⟨List.replicate (2 ^ 32) 0#8, List.length_replicate⟩
theorem test_wf_accepts : (Instr.configRead 8#32 4#32).wf && (Instr.dataWrite []).wf && (Instr.write [1#8]).wf := by decide

/-! ### Byte order (section 2.1's last paragraph) -/

theorem test_le32 : le32 0x12345677#32 = [0x77#8, 0x56#8, 0x34#8, 0x12#8] ∧ le32 256#32 = [0#8, 1#8, 0#8, 0#8] := by decide
theorem test_unle32 : unle32 0#8 0#8 0#8 0x80#8 = 2147483648#32 ∧ unle32 0x40#8 0#8 0#8 0#8 = 64#32 := by decide

/-! ### Encoding: V-E1 to V-E20 -/

theorem test_enc_statusRead : encStatusRead ref = [0x06#8, 0x00#8] := by decide
theorem test_enc_configRead_5 :
    (encConfigRead ref (ref.address .txBuf) 5#32).toOption =
      some [0x0A#8, 0x00#8, 0x20#8, 0x00#8, 0x00#8, 0x04#8, 0x00#8, 0x00#8, 0x00#8] := by decide
theorem test_enc_configRead_max :
    (encConfigRead ref (ref.address .txBuf) 0xFFFFFFFF#32).toOption =
      some [0x0A#8, 0x00#8, 0x20#8, 0x00#8, 0x00#8, 0xFE#8, 0xFF#8, 0xFF#8, 0xFF#8] := by decide
theorem test_enc_configRead_0 : (encConfigRead ref (ref.address .txBuf) 0#32).toOption = none := by decide
theorem test_enc_configWrite_257 :
    (encConfigWrite ref (ref.address .rxBuf) 257#32).toOption =
      some [0x0C#8, 0x00#8, 0x10#8, 0x00#8, 0x00#8, 0x00#8, 0x01#8, 0x00#8, 0x00#8] := by decide
theorem test_enc_configWrite_0 : (encConfigWrite ref (ref.address .rxBuf) 0#32).toOption = none := by decide
theorem test_enc_dataRead_4 : encDataRead ref 4#32 = [0x81#8, 0#8, 0#8, 0#8, 0#8] := by decide
theorem test_enc_dataRead_0 : encDataRead ref 0#32 = [0x81#8] := by decide
theorem test_enc_dataWrite : encDataWrite ref [0xFF#8, 0x06#8, 0x0E#8] = [0x0E#8, 0xFF#8, 0x06#8, 0x0E#8] := by decide
theorem test_enc_power : encPowerOn ref = [0x04#8] ∧ encPowerOff ref = [0x02#8] := by decide

/-! ### Decoding: a word written out for every constructor that has words (section 2.1, R91) -/

theorem test_decode_statusRead : (decode ref (.frame [0x06#8, 0x00#8])).toOption = some .statusRead := by decide
theorem test_decode_statusRead_fill : (decode ref (.frame [0x06#8, 0x99#8])).toOption = some .statusRead := by decide
theorem test_decode_statusRead_length :
    (decode ref (.frame [0x06#8])).toOption = none ∧ (decode ref (.frame [0x06#8, 0#8, 0#8])).toOption = none := by decide
theorem test_decode_configRead :
    (decode ref (.frame [0x0A#8, 0x08#8, 0#8, 0#8, 0#8, 0x03#8, 0#8, 0#8, 0#8])).toOption =
      some (.configRead 8#32 4#32) := by decide
/-- R86, R95: the field 2^32 - 1 is a frame of length 2^32, which no instruction of the block puts on the bus (R118). -/
theorem test_decode_longest :
    (decodeFrame ref [0x0A#8, 0#8, 0x20#8, 0#8, 0#8, 0xFF#8, 0xFF#8, 0xFF#8, 0xFF#8]).toOption =
      some (.configRead 0x2000#32 4294967296) ∧
    (decode ref (.frame [0x0A#8, 0#8, 0x20#8, 0#8, 0#8, 0xFF#8, 0xFF#8, 0xFF#8, 0xFF#8])).toOption = none := by decide
theorem test_decode_configWrite :
    (decode ref (.frame [0x0C#8, 0#8, 0x10#8, 0#8, 0#8, 0#8, 0x01#8, 0#8, 0#8])).toOption =
      some (.configWrite 0x1000#32 257#32) := by decide
theorem test_decode_dataRead : (decode ref (.frame [0x81#8, 0#8, 0#8, 0#8, 0#8])).toOption = some (.dataRead 4#32) := by decide
theorem test_decode_dataWrite : (decode ref (.frame [0x0E#8])).toOption = some (.dataWrite []) := by decide
theorem test_decode_powerOn : (decode ref (.frame [0x04#8])).toOption = some .powerOn := by decide
theorem test_decode_powerOff : (decode ref (.frame [0x02#8])).toOption = some .powerOff := by decide
theorem test_decode_no_frame :
    (decodeFrame ref [0x07#8]).toOption = none ∧ (decodeFrame ref []).toOption = none := by decide
theorem test_decode_init : (decodeCommand ⟨0b00#2, []⟩).toOption = some .init := by decide
theorem test_decode_read : (decodeCommand ⟨0b01#2, []⟩).toOption = some .read := by decide
theorem test_decode_write :
    (decodeCommand ⟨0b10#2, [0x50#8, 0x49#8, 0x4E#8, 0x47#8]⟩).toOption =
      some (.write [0x50#8, 0x49#8, 0x4E#8, 0x47#8]) := by decide
theorem test_decode_release : (decodeCommand ⟨0b11#2, []⟩).toOption = some .release := by decide
theorem test_poll_has_no_word : encode ref (.poll 4#8 3) = none := by decide
theorem test_table_words : decodeTableWord 2 0 = some .init ∧ decodeTableWord 8 3 = some .release := ⟨rfl, rfl⟩

/-! ### The codes of R23, R29, R92 -/

theorem test_codes : powerCode .failed = 3 ∧ phaseCode .xOff = 22 ∧ phaseCode .wData = 19 ∧ respCode .badState = 7 ∧
    respCode .powerOnTimeout = 5 ∧ detailCode .notReadyBuf = 3 := by decide

/-! ### The hit test: table V-H -/

theorem test_hit_sentinel : hit 0xFF#8 0x04#8 = false ∧ hit 0xFF#8 0xFF#8 = false := by decide
theorem test_hit_any_bit : hit 0xFE#8 0xFF#8 = true ∧ hit 0x04#8 0x05#8 = true ∧ hit 0x25#8 0x01#8 = true := by decide
theorem test_hit_other_bits : hit 0xFB#8 0x04#8 = false ∧ hit 0x24#8 0x01#8 = false ∧ hit 0x7F#8 0x80#8 = false ∧
    hit 0x04#8 0x00#8 = false := by decide

/-! ### STATUS_READ, POLL -/

/-- V-W1: the second poll's hit. -/
theorem test_statusRead_hit :
    field (fun t => (t.seq, t.cnt))
      (statusReadWith ref { ready with seq := .wStat2, cnt := 2, answers := [.ok [0#8, 0x05#8]] }) = some (.wData, 1) := by
  decide
/-- V-W1: the third poll's last miss. -/
theorem test_statusRead_timeout :
    field (fun t => (t.pwr, responses t.trace))
      (statusReadWith ref { ready with seq := .wStat3, cnt := 1, answers := [.ok [0#8, 0x01#8]] }) =
      some (.on, [(.pollTimeout, [], .none)]) := by decide
/-- V-P2: hit on attempt 3 of 3. -/
theorem test_poll_third :
    (poll ref .read2 4#8 3 { ready with answers := [.ok [0#8, 0#8], .ok [0#8, 0xFF#8], .ok [0#8, 0x05#8]] }).1 = .success 3 ∧
    (poll ref .read2 4#8 3 { ready with answers := [.ok [0#8, 0#8], .ok [0#8, 0xFF#8], .ok [0#8, 0x05#8]] }).2.cnt = 0 := by
  decide
/-- V-P5: failure on attempt 2, one attempt left at the failure. -/
theorem test_poll_fails :
    (poll ref .read2 4#8 3 { ready with answers := [.ok [0#8, 0#8], .fail] }).1 = .busFailed ∧
    (poll ref .read2 4#8 3 { ready with answers := [.ok [0#8, 0#8], .fail] }).2.cnt = 1 := by decide

/-! ### Config, data and power frames -/

/-- V-R1: the first frame, and the poll it enters. -/
theorem test_configRead :
    field (fun t => (t.seq, t.cnt))
      (configReadWith ref 8#32 4#32 { ready with seq := .rCfgL, answers := [.ok (List.replicate 9 0#8)] }) =
      some (.rWait1, 3) := by decide
/-- V-E8, R184: length 0 is the error, with nothing on the bus. -/
theorem test_configRead_0 :
    field (fun t => t.trace) (configReadWith ref 8#32 0#32 { ready with seq := .rCfgB }) =
      some [.response .invalidArgument [] .none] := by decide
/-- V-W9: bus failure at step 4. -/
theorem test_configWrite_fails :
    field (fun t => (t.pwr, t.trace))
      (configWriteWith ref 0x1000#32 3#32 { ready with seq := .wCfgB, buf := [1#8, 2#8, 3#8], answers := [.fail] }) =
      some (.failed, [.exchange [0x0C#8, 0#8, 0x10#8, 0#8, 0#8, 0x02#8, 0#8, 0#8, 0#8] none,
        .response .busUnavailable [] .none]) := by decide
/-- V-R7: length bytes 00 01 00 00 are 256. -/
theorem test_dataRead_length :
    field (fun t => (t.seq, t.len))
      (dataReadWith ref 4#32 { ready with seq := .rDatL, answers := [.ok [0#8, 0#8, 1#8, 0#8, 0#8]] }) =
      some (.rCfgB, 256#32) := by decide
/-- V-R6: byte 0 is dropped and nothing is interpreted. -/
theorem test_dataRead_payload :
    field (fun t => responses t.trace)
      (dataReadWith ref 3#32
        { ready with seq := .rDatB, len := 3#32, answers := [.ok [0x7E#8, 0xFF#8, 0x06#8, 0x81#8]] }) =
      some [(.ok, [0xFF#8, 0x06#8, 0x81#8], .none)] := by decide
/-- V-W1: the data frame, and the third poll. -/
theorem test_dataWrite :
    field (fun t => (t.seq, t.cnt))
      (dataWriteWith ref [0xAA#8, 0xBB#8]
        { ready with seq := .wData, buf := [0xAA#8, 0xBB#8], answers := [.ok [0#8, 0#8, 0#8]] }) = some (.wWait3, 3) := by
  decide
/-- V-I4: the power-on frame's exchange fails; no attempt was made. -/
theorem test_powerOn_fails :
    field (fun t => (t.pwr, t.budget))
      (powerOnWith ref { ready with pwr := .poweringOn, budget := 5, seq := .pOn, answers := [.fail] }) =
      some (.failed, 5) := by decide
/-- V-X3: `Off`, not `Failed`. -/
theorem test_powerOff_fails :
    field (fun t => (t.pwr, responses t.trace)) (powerOffWith ref { ready with seq := .xOff, answers := [.fail] }) =
      some (.off, [(.busUnavailable, [], .none)]) := by decide

/-! ### Host commands -/

/-- V-I6. -/
theorem test_init_in_on :
    field (fun t => (t.pwr, t.budget, t.trace)) (exec .init ready) = some (.on, 4, [.response .badState [] .none]) := by decide
/-- V-I1's first move. -/
theorem test_init_in_off :
    field (fun t => (t.pwr, t.seq)) (exec .init { ready with pwr := .off, budget := 5 }) = some (.poweringOn, .pOn) := by decide
/-- V-R8. -/
theorem test_read_in_failed :
    field (fun t => (t.pwr, t.trace)) (exec .read { ready with pwr := .failed }) =
      some (.failed, [.response .notReady [] .none]) := by decide
/-- V-W6: the power state is checked before the payload. -/
theorem test_write_empty_in_off :
    field (fun t => t.trace) (exec (.write []) { ready with pwr := .off }) = some [.response .notReady [] .none] := by decide
/-- V-W5. -/
theorem test_write_empty_in_on :
    field (fun t => t.trace) (exec (.write []) ready) = some [.response .invalidArgument [] .none] := by decide
/-- V-X2. -/
theorem test_release_in_failed :
    field (fun t => (t.pwr, t.budget)) (releaseWith ref { ready with pwr := .failed, budget := 0 }) = some (.off, 5) := by decide

/-! ### Witnesses: hypotheses that can be met -/

/-- FailedExchangeIsFatal; and PowerOnEntersTheHandshakePoll, PowerOffEndsTheSession at their phases. -/
theorem test_witness_failed_exchange :
    let s : State := { ready with seq := .rCfgL, answers := [.fail] }
    s.seq ≠ .xOff ∧ enabled (.configRead 8#32 4#32) s.seq = true ∧
      ∃ out, encode Config.params (.configRead 8#32 4#32) = some (.frame out) ∧ answerFor out s = none :=
  ⟨by decide, by decide, _, rfl, rfl⟩

/-- SentinelIsAMiss, second clause, at a site with an attempt left and at one with none. -/
theorem test_witness_sentinel :
    (let s : State := { ready with seq := .rStat1, cnt := 2, answers := [.ok [0#8, 0xFF#8]] }
     s.seq = siteStat .read2 ∧ answerFor (encStatusRead Config.params) s = some [0#8, 0xFF#8]) ∧
    (let s : State := { ready with pwr := .poweringOn, budget := 1, seq := .pStat, answers := [.ok [0#8, 0xFF#8]] }
     s.seq = siteStat .init ∧ answerFor (encStatusRead Config.params) s = some [0#8, 0xFF#8]) :=
  ⟨⟨rfl, rfl⟩, ⟨rfl, rfl⟩⟩

/-- HitIsAnyBitOfTheMask, first and third clause. -/
theorem test_witness_hit : (0xFE#8 : Byte) ≠ 0xFF#8 ∧ (0x04#8 : Byte) ≠ 0xFF#8 ∧
    (0xFE#8 : Byte) &&& 0x04#8 = 0x04#8 &&& 0x04#8 := by decide

/-- ConfigFramesRoundTrip: the two ends of the length's range. -/
theorem test_witness_config_lengths : (1#32 : U32) ≠ 0#32 ∧ (0xFFFFFFFF#32 : U32) ≠ 0#32 := by decide

/-- DecodeInvertsEncode and DecodedIsWellFormed (test_decode_longest has its refused frame): the longest config frame, an empty data-write, a WRITE. -/
theorem test_witness_encode :
    (Instr.configRead 0x2000#32 0xFFFFFFFF#32).wf = true ∧ (encode ref (.configRead 0x2000#32 0xFFFFFFFF#32)).isSome ∧
    encode ref (.dataWrite []) = some (.frame [0x0E#8]) ∧ encode ref (.write [1#8]) = some (.command ⟨2#2, [1#8]⟩) ∧
    (decode ref (.frame [0x0E#8])).toOption = some (.dataWrite []) := by decide

/-- InitFromOffStartsTheHandshake, InitOutsideOffIsBadState, GateRefusesTransfers, ReadFromOnStartsTheSequence,
WriteFromOnTakesThePayload, ReleaseAccepted, BusyPortHoldsTheCommand. -/
theorem test_witness_commands :
    (let s : State := { ready with pwr := .off }; s.seq = .idle ∧ s.pwr = .off ∧ s.pwr ≠ .on) ∧
    (let s : State := { ready with pwr := .failed }; s.seq = .idle ∧ s.pwr ≠ .off ∧ s.pwr ≠ .on) ∧
    (ready.seq = .idle ∧ ready.pwr = .on) ∧ ({ ready with seq := .rCfgL } : State).seq ≠ .idle := by decide

/-- BusyStepsLeaveThePort, StepDelays. -/
theorem test_witness_busy :
    let s : State := { ready with seq := .wWait3, cnt := 1, port := [⟨1#2, []⟩] }
    s.seq ≠ .idle ∧ s.resetIn.head? ≠ some true ∧ step s = .next (delayStep Config.params .write7 s) :=
  ⟨by decide, by decide, rfl⟩

/-- StatusReadInTheHandshake. -/
theorem test_witness_handshake :
    let s : State := { ready with pwr := .poweringOn, seq := .pStat, answers := [.ok [0#8, 1#8]] }
    s.seq = .pStat ∧ answerFor (encStatusRead Config.params) s = some [0#8, 1#8] := ⟨rfl, rfl⟩

/-- StatusReadInRead and StatusReadInWrite: the premise of each of their clauses. -/
theorem test_witness_status_reads : ∀ p ∈ [Phase.rStat1, .rStat2, .wStat1, .wStat2, .wStat3],
    let s : State := { ready with seq := p, cnt := 1, answers := [.ok [0#8, 4#8]] }
    s.seq = p ∧ answerFor (encStatusRead Config.params) s = some [0#8, 4#8] := by
  intro p _; exact ⟨rfl, rfl⟩

/-- ConfigReadEntersItsPoll, in its three phases. -/
theorem test_witness_configRead : ∀ p ∈ [Phase.rCfgL, .rCfgB, .wCfgL],
    let s : State := { ready with seq := p, answers := [.ok (List.replicate 9 7#8)] }
    ∃ out inn, encConfigRead Config.params 8#32 1#32 = .ok out ∧ answerFor out s = some inn ∧ s.seq = p := by
  intro p _; exact ⟨_, _, rfl, rfl, rfl⟩

/-- ConfigWriteEntersItsPoll. -/
theorem test_witness_configWrite :
    let s : State := { ready with seq := .wCfgB, answers := [.ok (List.replicate 9 7#8)] }
    ∃ out inn, encConfigWrite Config.params 8#32 0xFFFFFFFF#32 = .ok out ∧ answerFor out s = some inn ∧ s.seq = .wCfgB :=
  ⟨_, _, rfl, rfl, rfl⟩

/-- DataReadTakesAvailable and DataReadTakesFreeSpace: a length of 0, and another. -/
theorem test_witness_length_reads : ∀ p ∈ [Phase.rDatL, .wDatL], ∀ b ∈ [0#8, 5#8],
    let s : State := { ready with seq := p, buf := [1#8], answers := [.ok [9#8, b, 0#8, 0#8, 0#8]] }
    s.seq = p ∧ answerFor (encDataRead Config.params 4#32) s = some [9#8, b, 0#8, 0#8, 0#8] := by
  intro p _ b _; exact ⟨rfl, rfl⟩

/-- DataReadReturnsThePayload. -/
theorem test_witness_dataRead :
    let s : State := { ready with seq := .rDatB, len := 1#32, answers := [.ok [9#8, 0x41#8]] }
    s.seq = .rDatB ∧ answerFor (encDataRead Config.params 1#32) s = some (9#8 :: [0x41#8]) := ⟨rfl, rfl⟩

/-- DataWriteEntersTheFinishPoll. -/
theorem test_witness_dataWrite :
    let s : State := { ready with seq := .wData, buf := [1#8], answers := [.ok [0#8, 0#8]] }
    s.seq = .wData ∧ answerFor (encDataWrite Config.params [1#8]) s = some [0#8, 0#8] := ⟨rfl, rfl⟩

/-- PowerOnEntersTheHandshakePoll, PowerOffEndsTheSession. -/
theorem test_witness_power :
    (let s : State := { ready with pwr := .poweringOn, seq := .pOn, answers := [.ok [0#8]] }
     s.seq = .pOn ∧ answerFor (encPowerOn Config.params) s = some [0#8]) ∧
    ({ ready with seq := .xOff } : State).seq = .xOff := ⟨⟨rfl, rfl⟩, rfl⟩

/-- OutOfSequenceIsRefused: a frame and a POLL at `IDLE`, a data-read in a status phase. -/
theorem test_witness_out_of_sequence :
    enabled .statusRead .idle = false ∧ enabled (.poll 4#8 3) .rStat1 = false ∧ enabled (.dataRead 4#32) .rStat1 = false := by
  decide

/-- PollHandsItsValueToItsSite: the three values, at a site. -/
theorem test_witness_poll_values :
    let s : State := { ready with seq := .wWait1, cnt := 3 }
    s.seq = siteWait .write2 ∧
    (poll Config.params .write2 4#8 1 { s with answers := [.ok [0#8, 4#8]] }).1 = .success 1 ∧
    (poll Config.params .write2 4#8 0 s).1 = .timeout ∧
    (poll Config.params .write2 4#8 1 { s with answers := [.fail] }).1 = .busFailed := ⟨rfl, rfl, rfl, rfl⟩

/-- PollCountsAttempts: no attempt at all, and a hit on the last of three (V-P2). -/
theorem test_witness_poll_counts :
    let replies : List (Byte × Byte) := [(0#8, 0#8), (0#8, 0xFF#8), (0#8, 5#8)]
    let s : State := { ready with answers := replies.map (fun r => .ok [r.1, r.2]) ++ [.fail] }
    s.answers = replies.map (fun r => .ok [r.1, r.2]) ++ [.fail] ∧ 0 ≤ replies.length ∧ 3 ≤ replies.length ∧
    (poll ref .read2 4#8 0 s).1 = .timeout ∧ (poll ref .read2 4#8 3 s).1 = .success 3 :=
  ⟨rfl, by decide, by decide, by decide, by decide⟩

/-- PollEndsAtAFailedExchange (V-P5). -/
theorem test_witness_poll_fails :
    let misses : List (Byte × Byte) := [(0#8, 0#8)]
    let s : State := { ready with seq := .rWait1, answers := misses.map (fun r => .ok [r.1, r.2]) ++ .fail :: [] }
    s.seq = siteWait .read2 ∧ s.answers = misses.map (fun r => .ok [r.1, r.2]) ++ .fail :: [] ∧
    misses.length < 3 ∧ ∀ r ∈ misses, hit r.2 4#8 = false :=
  ⟨rfl, rfl, by decide, by simp [hit]⟩

/-- PollIsItsExpansion. -/
theorem test_witness_poll_expansion :
    let s : State := { ready with seq := .rWait1, cnt := 1 }
    s.seq = siteWait .read2 ∧ s.resetIn = [] ∧ 1 ≤ remaining .read2 s := ⟨rfl, rfl, by decide⟩

/-- StepRunsTheCommand; InitRunsItsSequence, ReadRunsItsSequence, WriteRunsItsSequence, ReleaseRunsItsSequence at each code;
the port of StepNeverStops. -/
theorem test_witness_port :
    let s : State := { ready with port := [⟨0#2, []⟩, ⟨1#2, []⟩, ⟨2#2, [1#8]⟩, ⟨3#2, []⟩] }
    s.seq = .idle ∧ s.resetIn = [] ∧ s.resetIn.head? ≠ some true ∧
    (∀ w, s.port.head? = some w → w.payload.length < 2 ^ 32) ∧
    s.port.map (fun w => (decodeCommand w).toOption) = [some .init, some .read, some (.write [1#8]), some .release] :=
  ⟨rfl, rfl, by decide, by rintro w ⟨⟩; decide, by decide⟩

/-- StepRunsThePhaseFrame, in every phase that it names. -/
theorem test_witness_phases : ∀ p : Phase, ({ ready with seq := p } : State).resetIn.head? ≠ some true := by
  intro p; simp [ready]

/-- ResetLeavesItsValues: its two clauses. -/
theorem test_witness_reset :
    ({ ready with resetIn := [true] } : State).resetIn.head? = some true ∧
    (ready.seq = .idle ∧ ready.resetIn.head? ≠ some true ∧ ready.port = []) := by decide

/-- PlacedCommandRunsNext: the codes at their widths. -/
theorem test_witness_placed : (2 : Nat) ≤ 8 ∧ (8 : Nat) ≤ 8 := by decide

/-- StepKeepsTheInvariant, PowerTransitions, OneResponseEndsACommand, CommandsEndWithinTheirBounds: a legal state in `Failed`
that presents a RELEASE, and the step that takes it. -/
theorem test_witness_invariant :
    let s : State := { ready with pwr := .failed, budget := 0, port := [⟨3#2, []⟩] }
    Inv Config.params s ∧ (decodeCommand ⟨3#2, []⟩).toOption = some .release ∧
      step s = .next (endSession Config.params .ok (takeCommand s)) :=
  ⟨inv_of_idle rfl rfl rfl rfl (Nat.zero_le _) (fun h => by cases h) (fun h => by cases h), by decide, rfl⟩

/-- StepKeepsTheTurnaround and StepKeepsFlowControl: the acceptance of a READ. -/
theorem test_witness_histories :
    let s : State := { ready with budget := 0, port := [⟨1#2, []⟩] }
    Inv Config.params s ∧ TurnaroundKept Config.params s ∧ FlowControlled Config.params s ∧
      step s = .next { ready with budget := 0, seq := .rCfgL } := by
  refine ⟨inv_of_idle rfl rfl rfl rfl (Nat.zero_le _) (fun h => by cases h) (fun h => by cases h), ⟨?_, ?_⟩, ⟨?_, ?_, ?_⟩, rfl⟩
  · intro b o a c h; simp [ready] at h
  · intro site h; cases h
  · intro b o a c h; simp [ready] at h
  · intro n h; cases h
  · intro h; cases h

/-- ErrorsEndTheirCommand: a fatal error, and one that is not. -/
theorem test_witness_errors :
    (let s : State := { ready with seq := .rCfgL, answers := [.fail] }
     ∃ t, step s = .next t ∧ responses t.trace = responses s.trace ++ [(.busUnavailable, [], .none)]) ∧
    (let s : State := { ready with port := [⟨0#2, []⟩] }
     ∃ t, step s = .next t ∧ responses t.trace = responses s.trace ++ [(.badState, [], .none)]) :=
  ⟨⟨_, rfl, rfl⟩, ⟨_, rfl, rfl⟩⟩

/-- StepKeepsFlowControl, second clause: a data-write goes out. -/
theorem test_witness_data_write_step :
    let s : State := { ready with seq := .wData, buf := [1#8], len := 64#32, cnt := 1, answers := [.fail] }
    ∃ t out more, step s = .next t ∧ t.trace = s.trace ++ .exchange out none :: more ∧
      isFrame Config.params .dataWrite out := ⟨_, _, _, rfl, rfl, rfl⟩

/-- FramesComeFromTheirSteps: the exchange of READ step 1. -/
theorem test_witness_config_step :
    let s : State := { ready with seq := .rCfgL, answers := [.fail] }
    ∃ t out more, step s = .next t ∧ t.trace = s.trace ++ .exchange out none :: more := ⟨_, _, _, rfl, rfl⟩

/-- UnreadBytesChangeNothing: byte 0 of a status read. -/
theorem test_witness_unread_status :
    let s : State := { ready with seq := .rStat1, cnt := 1 }
    s.resetIn.head? ≠ some true ∧ phaseFrame Config.params s = some .statusRead ∧
    (∃ out, encode Config.params .statusRead = some (.frame out) ∧ [1#8, 4#8].length = out.length ∧
      [9#8, 4#8].length = out.length) ∧
    ∀ k, readsPosition .statusRead k → [1#8, 4#8][k]? = [9#8, 4#8][k]? := by
  refine ⟨by decide, rfl, ⟨_, rfl, rfl, rfl⟩, ?_⟩
  rintro k rfl; rfl

/-- UnreadBytesChangeNothing: byte 0 of a data-read, whose bytes 1 to n agree. -/
theorem test_witness_unread_data :
    let s : State := { ready with seq := .rDatB, len := 2#32 }
    s.resetIn.head? ≠ some true ∧ phaseFrame Config.params s = some (.dataRead 2#32) ∧
    (∃ out, encode Config.params (.dataRead 2#32) = some (.frame out) ∧ [1#8, 7#8, 8#8].length = out.length ∧
      [9#8, 7#8, 8#8].length = out.length) ∧
    ∀ k, readsPosition (.dataRead 2#32) k → [1#8, 7#8, 8#8][k]? = [9#8, 7#8, 8#8][k]? := by
  refine ⟨by decide, rfl, ⟨_, rfl, rfl, rfl⟩, ?_⟩
  rintro (_ | k) ⟨h1, -⟩
  · omega
  · rfl

/-- UnreadBytesChangeNothing: every byte of a power frame's response (and, in the same way, of a config frame's). -/
theorem test_witness_unread_power :
    let s : State := { ready with seq := .xOff }
    s.resetIn.head? ≠ some true ∧ phaseFrame Config.params s = some .powerOff ∧
    (∃ out, encode Config.params .powerOff = some (.frame out) ∧ [1#8].length = out.length ∧ [9#8].length = out.length) ∧
    ∀ k, readsPosition .powerOff k → [1#8][k]? = [9#8][k]? :=
  ⟨by decide, rfl, ⟨_, rfl, rfl, rfl⟩, fun _ h => h.elim⟩

/-- ExchangesAreCounted: the ends that its clauses speak of can be reached (V-R2, V-W3). -/
theorem test_witness_counts :
    let zeros : Answer := .ok (List.replicate 9 0#8)
    let s : State := { ready with answers := [zeros, .ok [0#8, 4#8], .ok [0#8, 0#8, 0#8, 0#8, 0#8]] }
    s.pwr = .on ∧ (readSequence ref s).trace.getLast? = some (.response .ok [] .noData) ∧
    (writeSequence ref [1#8] s).trace.getLast? = some (.response .insufficientSpace [] .none) := by decide

/-- ExchangesAreCounted: a READ of one byte (V-R5) and a WRITE of one byte that end well. -/
theorem test_witness_counts_ok :
    let zeros : Answer := .ok (List.replicate 9 0#8)
    let begin5 : List Answer := [zeros, .ok [0#8, 4#8], .ok [0#8, 1#8, 0#8, 0#8, 0#8], zeros, .ok [0#8, 5#8]]
    (readSequence ref { ready with answers := begin5 ++ [.ok [0#8, 0x41#8]] }).trace.getLast? =
      some (.response .ok [0x41#8] .none) ∧
    (writeSequence ref [1#8] { ready with answers := begin5 ++ [.ok [0#8, 0#8], .ok [0#8, 0x21#8]] }).trace.getLast? =
      some (.response .ok [] .none) := by decide

/-- CommandsEndWithinTheirBounds, ReadRunsItsSequence and WriteRunsItsSequence: a READ and a WRITE presented in `On`. -/
theorem test_witness_bounds_transfer : ∀ w ∈ [(⟨1#2, []⟩ : PortWord), ⟨2#2, [1#8]⟩],
    let s : State := { ready with budget := 0, port := [w] }
    Inv Config.params s ∧ s.seq = .idle ∧ s.resetIn = [] ∧ s.port = [w] ∧ (decodeCommand w).toOption.isSome := by
  intro w hw
  refine ⟨inv_of_idle rfl rfl rfl rfl (Nat.zero_le _) (fun h => by cases h) (fun h => by cases h), rfl, rfl, rfl, ?_⟩
  simp only [List.mem_cons, List.not_mem_nil, or_false] at hw
  rcases hw with rfl | rfl <;> decide

/-- CommandsEndWithinTheirBounds and InitRunsItsSequence: an INIT presented in `Off` with the whole budget. -/
theorem test_witness_bounds_init :
    let s : State := { ready with pwr := .off, budget := Config.params.pwrAttempts, port := [⟨0#2, []⟩] }
    Inv Config.params s ∧ s.seq = .idle ∧ s.resetIn = [] ∧ s.port = [⟨0#2, []⟩] ∧
      (decodeCommand ⟨0#2, []⟩).toOption = some .init :=
  ⟨inv_of_idle rfl rfl rfl rfl (Nat.le_refl _) (fun _ => rfl) (fun h => by cases h), rfl, rfl, rfl, by decide⟩

/-- HandshakeConsumesItsBudget, first clause: the third attempt hits (P1). -/
theorem test_witness_budget_hit :
    let misses : List (Byte × Byte) := [(0#8, 0#8), (0#8, 0xFF#8)]
    let s : State := { ready with pwr := .off, budget := 5,
                                  answers := [.ok [0#8], .ok [0#8, 0#8], .ok [0#8, 0xFF#8], .ok [0#8, 1#8]] }
    s.pwr = .off ∧ s.budget = ref.pwrAttempts ∧
    s.answers = .ok [0#8] :: (misses.map (fun r => .ok [r.1, r.2]) ++ [.ok [0#8, 1#8]]) ∧
    (∀ r ∈ misses, hit r.2 ref.flagSlaveOn = false) ∧ misses.length < ref.pwrAttempts ∧
    hit 1#8 ref.flagSlaveOn = true :=
  ⟨rfl, rfl, rfl, by simp [hit, ref], by decide, by decide⟩

/-- HandshakeConsumesItsBudget, second clause: no attempt hits (P3). -/
theorem test_witness_budget_timeout :
    let misses : List (Byte × Byte) := [(0#8, 0x24#8), (0#8, 0#8), (0#8, 0xFF#8), (0#8, 0x24#8), (0#8, 0#8)]
    let s : State := { ready with pwr := .off, budget := 5,
                                  answers := .ok [0#8] :: (misses.map (fun r => .ok [r.1, r.2]) ++ []) }
    s.pwr = .off ∧ s.budget = ref.pwrAttempts ∧
    s.answers = .ok [0#8] :: (misses.map (fun r => .ok [r.1, r.2]) ++ []) ∧
    (∀ r ∈ misses, hit r.2 ref.flagSlaveOn = false) ∧ misses.length = ref.pwrAttempts :=
  ⟨rfl, rfl, rfl, by simp [hit, ref], rfl⟩

/-- WriteThenReadRoundTrip: a payload of one byte, misses before the first hit (at the budget's edge) and before the finished
flag, none before the other three. -/
theorem test_witness_round_trip :
    let p : List Byte := [0x50#8]
    let c : List Byte := List.replicate 9 0#8
    let m1 : List (Byte × Byte) := [(0#8, 0xFF#8), (7#8, 0#8)]
    let m3 : List (Byte × Byte) := [(0#8, 4#8)]
    let none' : List (Byte × Byte) := []
    let s : State := { ready with
      answers := .ok c :: (statusAnswers m1 ++ .ok [0#8, 5#8] :: .ok [0#8, 1#8, 0#8, 0#8, 0#8] ::
        .ok c :: (statusAnswers none' ++ .ok [0#8, 5#8] :: .ok [0#8, 0#8] :: (statusAnswers m3 ++ .ok [0#8, 0x21#8] ::
        .ok c :: (statusAnswers none' ++ .ok [0#8, 5#8] :: .ok [0#8, 1#8, 0#8, 0#8, 0#8] ::
        .ok c :: (statusAnswers none' ++ .ok [0#8, 5#8] :: .ok (0#8 :: p) :: []))))) }
    s.pwr = .on ∧ 1 ≤ p.length ∧ p.length < 2 ^ 32 ∧ c.length = 9 ∧ [0#8, 0#8].length = p.length + 1 ∧
    (∀ m ∈ [m1, none', none', none'], m.length < ref.fifoAttempts ∧ ∀ r ∈ m, hit r.2 ref.flagFifoReady = false) ∧
    m3.length < ref.finAttempts ∧ (∀ r ∈ m3, hit r.2 ref.flagRdwrFinished = false) ∧
    hit 5#8 ref.flagFifoReady = true ∧ hit 0x21#8 ref.flagRdwrFinished = true ∧
    p.length ≤ (unle32 1#8 0#8 0#8 0#8).toNat ∧ (unle32 1#8 0#8 0#8 0#8).toNat = p.length ∧
    responses (readSequence ref (writeSequence ref p s)).trace = [(.ok, [], .none), (.ok, p, .none)] :=
  ⟨rfl, by decide, by decide, rfl, rfl, by intro m hm; fin_cases hm <;> simp [hit, ref], by decide,
    by simp [hit, ref], by decide, by decide,
    by decide, by decide, by decide⟩

end Sys2Proof.Tests
end

section
/-! Proofs of the statements about the state rules (10_state.md): what each instruction does where it is enabled, the legal
states, the end of a command. -/

namespace Sys2Proof.Machine

/-! ### An instruction where it is enabled

One equation per instruction: `exec` in the phases that issue a frame, and a command at `IDLE` (R24). -/

theorem exec_configRead_of_site {s : State} {site : PollSite} (h : siteAfterConfigRead s.seq = some site) (a l : U32) :
    exec (.configRead a l) s = .next (configPhase Config.params site (encConfigRead Config.params a l) s) := by
  simp only [exec, execConfigRead, configReadWith, h]

theorem exec_configWrite_of_site {s : State} {site : PollSite} (h : siteAfterConfigWrite s.seq = some site) (a l : U32) :
    exec (.configWrite a l) s = .next (configPhase Config.params site (encConfigWrite Config.params a l) s) := by
  simp only [exec, execConfigWrite, configWriteWith, h]

theorem exec_dataRead_of_rDatL {s : State} (h : s.seq = .rDatL) (n : U32) :
    exec (.dataRead n) s = .next (exchange (encDataRead Config.params n) busFail takeAvailable s) := by
  simp only [exec, execDataRead, dataReadWith, h]

theorem exec_dataRead_of_wDatL {s : State} (h : s.seq = .wDatL) (n : U32) :
    exec (.dataRead n) s = .next (exchange (encDataRead Config.params n) busFail takeFreeSpace s) := by
  simp only [exec, execDataRead, dataReadWith, h]

theorem exec_dataRead_of_rDatB {s : State} (h : s.seq = .rDatB) (n : U32) :
    exec (.dataRead n) s = .next
      (exchange (encDataRead Config.params n) busFail (fun inn => respond .ok (dataField n inn) .none) s) := by
  simp only [exec, execDataRead, dataReadWith, h]

theorem exec_dataWrite_of_wData {s : State} (h : s.seq = .wData) (p : List Byte) :
    exec (.dataWrite p) s = .next
      (exchange (encDataWrite Config.params p) busFail (fun _ => beginPoll Config.params .write7) s) := by
  simp only [exec, execDataWrite, dataWriteWith, h]

theorem exec_powerOn_of_pOn {s : State} (h : s.seq = .pOn) :
    exec .powerOn s = .next (exchange (encPowerOn Config.params) busFail (fun _ => beginPoll Config.params .init) s) := by
  simp only [exec, execPowerOn, powerOnWith, h]

theorem exec_powerOff_of_xOff {s : State} (h : s.seq = .xOff) :
    exec .powerOff s = .next (exchange (encPowerOff Config.params) (endSession Config.params .busUnavailable)
      (fun _ => endSession Config.params .ok) s) := by
  simp only [exec, execPowerOff, powerOffWith, h]

theorem exec_init_of_idle {s : State} (h : s.seq = .idle) : exec .init s = .next (acceptInit s) := by
  simp only [exec, execInit, acceptAtIdle, h, if_true]

theorem exec_read_of_idle {s : State} (h : s.seq = .idle) : exec .read s = .next (acceptRead s) := by
  simp only [exec, execRead, acceptAtIdle, h, if_true]

theorem exec_write_of_idle {s : State} (h : s.seq = .idle) (p : List Byte) :
    exec (.write p) s = .next (acceptWrite p s) := by
  simp only [exec, execWrite, acceptAtIdle, h, if_true]

theorem exec_release_of_idle {s : State} (h : s.seq = .idle) :
    exec .release s = .next (acceptRelease Config.params s) := by
  simp only [exec, execRelease, releaseWith, acceptAtIdle, h, if_true]

/-! ### The acceptance of a command -/

/-- An error that is not fatal leaves the power state (R191). -/
theorem takeError_of_not_fatal {c : RespCode} (hc : fatal c = false) (s : State) :
    takeError c s = { s with seq := .idle, cnt := 0, len := 0#32, buf := [],
                             trace := s.trace ++ [.response c [] .none] } := by
  simp only [takeError, respond, hc, Bool.false_eq_true, if_false]

/-- Settles O10: `acceptInit` in `Off`. -/
theorem initFromOffStartsTheHandshake : Obligations.InitFromOffStartsTheHandshake := by
  intro s hs hoff
  rw [exec_init_of_idle hs, acceptInit, if_pos hoff]

/-- Settles O13: `acceptRead` in `On`. -/
theorem readFromOnStartsTheSequence : Obligations.ReadFromOnStartsTheSequence := by
  intro s hs hon
  rw [exec_read_of_idle hs, acceptRead, if_pos hon]

/-- Settles O14: the empty payload is the error `InvalidArgument`, which is not fatal. -/
theorem writeFromOnTakesThePayload : Obligations.WriteFromOnTakesThePayload := by
  intro s p hs hon
  rw [exec_write_of_idle hs, acceptWrite, if_pos hon, takeError_of_not_fatal rfl]
  simp only [List.length_eq_zero_iff, hs]

/-- Settles O15: outside `On` the Session ends without an exchange. -/
theorem releaseAccepted : Obligations.ReleaseAccepted := by
  intro s hs
  rw [exec_release_of_idle hs, acceptRelease]
  simp only [endSession, respond, hs]

/-! ### An exchange that returns -/

theorem afterExchange_of_some {s : State} {out inn : List Byte} (h : answerFor out s = some inn) :
    afterExchange out s = { s with answers := s.answers.tail, trace := s.trace ++ [.exchange out (some inn)] } := by
  rw [afterExchange, h]

/-- The exchange of an attempt: recorded as it would be without the attempt's decrement. -/
theorem afterExchange_spendAttempt {s : State} {out inn : List Byte} (site : PollSite) (h : answerFor out s = some inn) :
    afterExchange out (spendAttempt site s) =
      spendAttempt site { s with answers := s.answers.tail, trace := s.trace ++ [.exchange out (some inn)] } := by
  rw [afterExchange, answerFor_spendAttempt, h]
  cases site <;> rfl

/-- The attempt whose exchange returns: tested with the mask of its site (R130, R138). -/
theorem exec_statusRead_of_answer {s : State} {site : PollSite} {inn : List Byte} (hs : s.seq = siteStat site)
    (h : answerFor (encStatusRead Config.params) s = some inn) :
    exec .statusRead s = .next (
      let u := spendAttempt site { s with answers := s.answers.tail,
                                          trace := s.trace ++ [.exchange (encStatusRead Config.params) (some inn)] }
      if hit (statusByte inn) (siteFlag Config.params site) then onSuccess site u else nextAttempt site u) := by
  rw [exec_statusRead_of_site hs, statusAttempt, exchange_of_some (by simpa using h), afterExchange_spendAttempt site h]

/-- A poll of READ or WRITE loads `cnt` and begins with a delay: its attempts are not 0 (R7(b)). -/
theorem beginPoll_of_ne_init {site : PollSite} (hsite : site ≠ .init) (P : Params) (s : State) :
    beginPoll P site s = { s with cnt := siteAttempts P site s, seq := siteWait site } := by
  have hpos : siteAttempts P site s ≠ 0 := by
    have hfifo := P.fifoAttempts_pos
    have hfin := P.finAttempts_pos
    cases site with
    | init => exact absurd rfl hsite
    | read2 | read5 | write2 | write5 => exact Nat.one_le_iff_ne_zero.mp hfifo
    | write7 => exact Nat.one_le_iff_ne_zero.mp hfin
  rw [beginPoll, nextAttempt, remaining_loadCounter, if_neg hpos]
  cases site with
  | init => exact absurd rfl hsite
  | read2 | read5 | write2 | write5 | write7 => rfl

/-- A config frame whose exchange returns enters its poll, whatever came back (R82). -/
theorem configPhase_of_answer {site : PollSite} (hsite : site ≠ .init) (P : Params) {s : State} {out inn : List Byte}
    (h : answerFor out s = some inn) :
    configPhase P site (.ok out) s =
      { s with cnt := siteAttempts P site s, seq := siteWait site, answers := s.answers.tail,
               trace := s.trace ++ [.exchange out (some inn)] } := by
  rw [configPhase, exchange_of_some h, beginPoll_of_ne_init hsite, afterExchange_of_some h]
  cases site <;> rfl

/-! ### The frames, when the exchange returns -/

/-- Settles O18: the attempt at the site of INIT, counted in `budget`. -/
theorem statusReadInTheHandshake : Obligations.StatusReadInTheHandshake := by
  intro s inn hs h
  rw [exec_statusRead_of_answer (site := .init) hs h]
  rfl

/-- Settles O19: the attempts at the two sites of READ. -/
theorem statusReadInRead : Obligations.StatusReadInRead := by
  intro s inn h
  exact ⟨fun hs => exec_statusRead_of_answer (site := .read2) hs h,
    fun hs => exec_statusRead_of_answer (site := .read5) hs h⟩

/-- Settles O20: the attempts at the three sites of WRITE. -/
theorem statusReadInWrite : Obligations.StatusReadInWrite := by
  intro s inn h
  exact ⟨fun hs => exec_statusRead_of_answer (site := .write2) hs h,
    fun hs => exec_statusRead_of_answer (site := .write5) hs h,
    fun hs => exec_statusRead_of_answer (site := .write7) hs h⟩

/-- Settles O21: one config-read, entering the poll of each of its three sites. -/
theorem configReadEntersItsPoll : Obligations.ConfigReadEntersItsPoll := by
  intro s a l out inn hout h
  have hexec : ∀ site, site ≠ .init → siteAfterConfigRead s.seq = some site → exec (.configRead a l) s = .next
      { s with cnt := siteAttempts Config.params site s, seq := siteWait site, answers := s.answers.tail,
               trace := s.trace ++ [.exchange out (some inn)] } := fun site hsite hs => by
    rw [exec_configRead_of_site hs, hout, configPhase_of_answer hsite _ h]
  exact ⟨fun hs => hexec .read2 nofun (by rw [hs]; rfl), fun hs => hexec .read5 nofun (by rw [hs]; rfl),
    fun hs => hexec .write2 nofun (by rw [hs]; rfl)⟩

/-- Settles O22: the config-write, entering the poll of WRITE step 5. -/
theorem configWriteEntersItsPoll : Obligations.ConfigWriteEntersItsPoll := by
  intro s a l out inn hout h hs
  rw [exec_configWrite_of_site (site := .write5) (by rw [hs]; rfl), hout, configPhase_of_answer (site := .write5) nofun _ h]
  rfl

/-- Settles O24: `takeAvailable` after the exchange. -/
theorem dataReadTakesAvailable : Obligations.DataReadTakesAvailable := by
  refine ⟨fun _ _ _ _ _ => rfl, fun s n inn hs h => ?_⟩
  rw [exec_dataRead_of_rDatL hs, exchange_of_some h, afterExchange_of_some h]
  rfl

/-- Settles O25: `takeFreeSpace` after the exchange; its error is not fatal. -/
theorem dataReadTakesFreeSpace : Obligations.DataReadTakesFreeSpace := by
  intro s n inn hs h
  rw [exec_dataRead_of_wDatL hs, exchange_of_some h, afterExchange_of_some h]
  simp only [takeFreeSpace, takeError_of_not_fatal (c := .insufficientSpace) rfl]

/-- Settles O26: the response is one byte longer than the data (R50, R83). -/
theorem dataReadReturnsThePayload : Obligations.DataReadReturnsThePayload := by
  intro s n b data hs h
  have hlen : data.length = n.toNat := by simpa using answerFor_length h
  refine ⟨hlen, ?_⟩
  rw [exec_dataRead_of_rDatB hs, exchange_of_some h, afterExchange_of_some h]
  simp [respond, dataField, ← hlen]

/-- Settles O27: the data-write, entering the poll of WRITE step 7. -/
theorem dataWriteEntersTheFinishPoll : Obligations.DataWriteEntersTheFinishPoll := by
  intro s p inn hs h
  rw [exec_dataWrite_of_wData hs, exchange_of_some h, beginPoll_of_ne_init (site := .write7) nofun, afterExchange_of_some h]
  rfl

/-- Settles O28: the handshake's poll takes the budget as it finds it. -/
theorem powerOnEntersTheHandshakePoll : Obligations.PowerOnEntersTheHandshakePoll := by
  intro s inn hs h
  rw [exec_powerOn_of_pOn hs, exchange_of_some h, afterExchange_of_some h]
  rfl

/-- Settles O29: the exchange fails or returns, and the Session ends either way. -/
theorem powerOffEndsTheSession : Obligations.PowerOffEndsTheSession := by
  intro s hs
  rw [exec_powerOff_of_xOff hs]
  rcases exchange_cases (encPowerOff Config.params) (endSession Config.params .busUnavailable)
    (fun _ => endSession Config.params .ok) s with ⟨h, heq⟩ | ⟨inn, h, -, heq⟩ <;> rw [heq] <;>
    simp [endSession, respond, afterExchange, h]

/-! ### What a step runs -/

/-- A phase that issues a frame fetches it, unless reset is asserted. -/
theorem step_of_phaseFrame {s : State} {i : Instr} (hr : s.resetIn.head? ≠ some true)
    (hi : phaseFrame Config.params s = some i) : step s = exec i (tick s) := by
  rcases fetch_cases Config.params s with ⟨-, hreset⟩ | ⟨-, ⟨site, -, hs⟩ | ⟨j, hf, hj⟩ | ⟨hs, -⟩⟩
  · exact absurd hreset hr
  · cases site <;> simp [phaseFrame, hs, siteWait] at hi
  · rw [step_of_fetch_frame hf, Option.some.inj (hi.symm.trans hj)]
  · simp [phaseFrame, hs] at hi

/-- A delay phase fetches its delay, unless reset is asserted. -/
theorem step_of_siteWait {s : State} {site : PollSite} (hr : s.resetIn.head? ≠ some true) (hs : s.seq = siteWait site) :
    step s = .next (delayStep Config.params site (tick s)) :=
  step_of_fetch_wait (by simp [fetch, hr, hs])

/-- Settles O37: `phaseFrame` read off in each phase. -/
theorem stepRunsThePhaseFrame : Obligations.StepRunsThePhaseFrame := by
  intro s hr
  have hstep : ∀ {i}, phaseFrame Config.params s = some i → step s = exec i (tick s) := step_of_phaseFrame hr
  refine ⟨fun hs => hstep ?_, fun hs => hstep ?_, fun hs => hstep ?_, fun hs => hstep ?_, fun hs => hstep ?_,
    fun hs => hstep ?_, fun hs => hstep ?_, fun hs => hstep ?_, fun hs => hstep ?_, fun hs => hstep ?_⟩
  case refine_2 => rcases hs with hs | hs | hs | hs | hs | hs <;> simp only [phaseFrame, hs]
  case refine_4 => rcases hs with hs | hs <;> simp only [phaseFrame, hs]
  all_goals simp only [phaseFrame, hs, Params.address, bufLength]

/-- Settles O38: the delay step of each of the six sites. -/
theorem stepDelays : Obligations.StepDelays := by
  intro s hr
  have hstep : ∀ site, s.seq = siteWait site → step s = .next (delayStep Config.params site (tick s)) :=
    fun _ => step_of_siteWait hr
  exact ⟨hstep .init, hstep .read2, hstep .read5, hstep .write2, hstep .write5, hstep .write7⟩

/-! ### Enabled and refused -/

theorem isSome_siteAfterConfigRead (p : Phase) (a l : U32) :
    (siteAfterConfigRead p).isSome = enabled (.configRead a l) p := by cases p <;> rfl

theorem isSome_siteAfterConfigWrite (p : Phase) (a l : U32) :
    (siteAfterConfigWrite p).isSome = enabled (.configWrite a l) p := by cases p <;> rfl

/-- A frame or POLL out of its phase is refused by its name. -/
theorem exec_of_not_enabled {s : State} {i : Instr} (h : enabled i s.seq = false) :
    exec i s = .refused (.notEnabled (mnemonicOf i)) := by
  cases i with
  | statusRead =>
    have hnone : siteOfStat s.seq = none := by simpa [enabled] using h
    simp only [exec, execStatusRead, statusReadWith, hnone, mnemonicOf]
  | configRead a l =>
    have hnone : siteAfterConfigRead s.seq = none := by simpa using (isSome_siteAfterConfigRead s.seq a l).trans h
    simp only [exec, execConfigRead, configReadWith, hnone, mnemonicOf]
  | configWrite a l =>
    have hnone : siteAfterConfigWrite s.seq = none := by simpa using (isSome_siteAfterConfigWrite s.seq a l).trans h
    simp only [exec, execConfigWrite, configWriteWith, hnone, mnemonicOf]
  | poll flag n =>
    have hnone : siteOfWait s.seq = none := by simpa [enabled] using h
    simp only [exec, execPoll, pollWith, hnone, mnemonicOf]
  | dataRead n =>
    unfold exec execDataRead dataReadWith
    split <;> simp_all [enabled, mnemonicOf]
  | dataWrite p =>
    unfold exec execDataWrite dataWriteWith
    split <;> simp_all [enabled, mnemonicOf]
  | powerOn =>
    unfold exec execPowerOn powerOnWith
    split <;> simp_all [enabled, mnemonicOf]
  | powerOff =>
    unfold exec execPowerOff powerOffWith
    split <;> simp_all [enabled, mnemonicOf]
  | init | read | write | release => cases h

/-- Settles O31: the refusal, by constructor. -/
theorem outOfSequenceIsRefused : Obligations.OutOfSequenceIsRefused := fun _ _ h => exec_of_not_enabled h

/-- An instruction in its phase has a next state. -/
theorem exec_of_enabled {s : State} {i : Instr} (h : enabled i s.seq = true) : ∃ t, exec i s = .next t := by
  cases i with
  | statusRead =>
    obtain ⟨site, hs⟩ := Option.isSome_iff_exists.mp h
    exact ⟨_, exec_statusRead_of_site (siteOfStat_eq_some.mp hs)⟩
  | configRead a l =>
    obtain ⟨site, hs⟩ := Option.isSome_iff_exists.mp ((isSome_siteAfterConfigRead s.seq a l).trans h)
    exact ⟨_, exec_configRead_of_site hs a l⟩
  | configWrite a l =>
    obtain ⟨site, hs⟩ := Option.isSome_iff_exists.mp ((isSome_siteAfterConfigWrite s.seq a l).trans h)
    exact ⟨_, exec_configWrite_of_site hs a l⟩
  | poll flag n =>
    obtain ⟨site, hs⟩ := Option.isSome_iff_exists.mp h
    exact ⟨concludePoll site (poll Config.params site flag n s), by simp only [exec, execPoll, pollWith, hs]⟩
  | dataRead n =>
    have hs : (s.seq = .rDatL ∨ s.seq = .wDatL) ∨ s.seq = .rDatB := by simpa [enabled] using h
    rcases hs with (hs | hs) | hs
    · exact ⟨_, exec_dataRead_of_rDatL hs n⟩
    · exact ⟨_, exec_dataRead_of_wDatL hs n⟩
    · exact ⟨_, exec_dataRead_of_rDatB hs n⟩
  | dataWrite p => exact ⟨_, exec_dataWrite_of_wData (eq_of_beq h) p⟩
  | powerOn => exact ⟨_, exec_powerOn_of_pOn (eq_of_beq h)⟩
  | powerOff => exact ⟨_, exec_powerOff_of_xOff (eq_of_beq h)⟩
  | init | read | write | release => exact ⟨_, rfl⟩

/-- A phase issues only a frame that is enabled in it. -/
theorem enabled_of_phaseFrame {P : Params} {s : State} {i : Instr} (h : phaseFrame P s = some i) :
    enabled i s.seq = true := by
  revert h
  unfold phaseFrame
  cases s.seq <;> intro h <;> cases h <;> rfl

theorem enabled_of_decodeCommand {w : PortWord} {i : Instr} (h : decodeCommand w = .ok i) (p : Phase) :
    enabled i p = true := by
  rcases decodeCommand_cases h with rfl | rfl | ⟨rfl, -⟩ | rfl <;> rfl

/-- Every code is a command's, so only a payload that is too long makes a word no command (R91). -/
theorem decodeCommand_of_fits {w : PortWord} (h : w.payload.length < 2 ^ 32) : ∃ i, decodeCommand w = .ok i := by
  unfold decodeCommand
  simp only [payloadFits, h, decide_true, if_true]
  split_ifs <;> exact ⟨_, rfl⟩

/-- Settles O40: what is fetched is reset, a wait, an instruction enabled where it is fetched, or a word too long. -/
theorem stepNeverStops : Obligations.StepNeverStops := by
  intro s hport
  rcases fetch_cases Config.params s with ⟨hf, -⟩ | ⟨-, ⟨site, hf, -⟩ | ⟨i, hf, hi⟩ | ⟨-, hf⟩⟩
  · exact ⟨_, step_of_fetch_reset hf⟩
  · exact ⟨_, step_of_fetch_wait hf⟩
  · rw [step_of_fetch_frame hf]
    exact exec_of_enabled (enabled_of_phaseFrame (s := tick s) hi)
  · cases hp : s.port with
    | nil => exact ⟨_, step_of_fetch_waitHost (hf.trans (by simp only [fetchCommand, hp]))⟩
    | cons w rest =>
      obtain ⟨i, hi⟩ := decodeCommand_of_fits (hport w (by rw [hp]; rfl))
      rw [step_of_fetch_command (i := i) (hf.trans (by simp only [fetchCommand, hp, hi]))]
      exact exec_of_enabled (enabled_of_decodeCommand hi _)

/-! ### The end of a command -/

/-- A response ends a command legally in `On` and in `Failed`, whatever phase it was in. -/
theorem inv_respond {P : Params} {s : State} (hb : s.budget ≤ P.pwrAttempts) (hp : s.pwr = .on ∨ s.pwr = .failed)
    (c : RespCode) (d : List Byte) (x : Detail) : Inv P (respond c d x s) :=
  inv_of_idle rfl rfl rfl rfl hb (by rcases hp with hp | hp <;> simp [hp]) (by rcases hp with hp | hp <;> simp [hp])

/-- An error ends a command legally when it is fatal or the Session is on. -/
theorem inv_takeError {P : Params} {s : State} (hb : s.budget ≤ P.pwrAttempts) {c : RespCode}
    (hp : fatal c = true ∨ s.pwr = .on) : Inv P (takeError c s) := by
  refine inv_respond (s := { s with pwr := if fatal c then .failed else s.pwr }) hb ?_ c [] .none
  cases hf : fatal c with
  | true => exact .inr rfl
  | false => exact .inl (hp.resolve_left (by simp [hf]))

theorem inv_busFail {P : Params} {s : State} (hb : s.budget ≤ P.pwrAttempts) : Inv P (busFail s) :=
  inv_takeError hb (.inl rfl)

theorem inv_endSession (P : Params) (c : RespCode) (s : State) : Inv P (endSession P c s) :=
  inv_of_idle rfl rfl rfl rfl le_rfl (fun _ => rfl) nofun

theorem inv_assertReset (P : Params) (s : State) : Inv P (assertReset P s) :=
  inv_of_idle rfl rfl rfl rfl le_rfl (fun _ => rfl) nofun

/-! ### A state that is legal but for its phase

`Inv` speaks of the phase a state is in. Between an exchange and the phase that follows it, the counters, the mode, `buf` and
`len` already fit the next phase while `seq` still names the last one: `Running P p s` says that they fit phase `p`. -/

/-- The elements of `s` but `seq` are legal in phase `p`, attempts left aside. -/
structure Running (P : Params) (p : Phase) (s : State) : Prop where
  budget_le : s.budget ≤ P.pwrAttempts
  cnt_le : s.cnt ≤ max P.fifoAttempts P.finAttempts
  mode : modeFits p s.pwr = true
  buf_fits : if inWrite p then 1 ≤ s.buf.length ∧ s.buf.length < 2 ^ 32 else s.buf = []
  len_fits : if afterAvailable p then s.len ≠ 0#32 else if afterFreeSpace p then s.buf.length ≤ s.len.toNat
    else s.len = 0#32

theorem Inv.running {P : Params} {s : State} (h : Inv P s) : Running P s.seq s :=
  ⟨h.budget_le, h.cnt_le, h.mode, h.buf_fits, h.len_fits⟩

/-- Only an idle block is in `Off`. -/
theorem modeFits_off {p : Phase} (h : modeFits p .off = true) : p = .idle := by
  revert h; cases p <;> decide

namespace Running

variable {P : Params} {p : Phase} {s : State}

/-- A busy phase is entered legally when an attempt is left for the poll it belongs to. -/
theorem inv {t : State} (h : Running P t.seq t) (hbusy : t.seq ≠ .idle) (hon : t.seq = .pOn → t.budget = P.pwrAttempts)
    (hatt : ∀ site, siteOf t.seq = some site → 1 ≤ remaining site t) : Inv P t where
  budget_le := h.budget_le
  budget_off hoff := absurd (modeFits_off (hoff ▸ h.mode)) hbusy
  budget_on := hon
  cnt_le := h.cnt_le
  attempts := hatt
  mode := h.mode
  idle_clear hidle := absurd hidle hbusy
  buf_fits := h.buf_fits
  len_fits := h.len_fits

theorem afterExchange (h : Running P p s) (out : List Byte) : Running P p (afterExchange out s) :=
  ⟨h.budget_le, h.cnt_le, h.mode, h.buf_fits, h.len_fits⟩

theorem spendAttempt (h : Running P p s) (site : PollSite) : Running P p (spendAttempt site s) := by
  obtain ⟨hbudget, hcnt, hmode, hbuf, hlen⟩ := h
  constructor
  · rw [spendAttempt_budget]; split <;> omega
  · rw [spendAttempt_cnt]; split <;> omega
  · simpa using hmode
  · simpa using hbuf
  · simpa using hlen

theorem loadCounter (h : Running P p s) (site : PollSite) :
    Running P p (loadCounter site (siteAttempts P site s) s) := by
  obtain ⟨hbudget, hcnt, hmode, hbuf, hlen⟩ := h
  constructor
  · cases site <;> exact hbudget
  · cases site <;> simp [Machine.loadCounter, siteAttempts, hcnt]
  · simpa using hmode
  · simpa using hbuf
  · simpa using hlen

/-- Phases of the same part of a command ask the same of the other elements. -/
theorem samePart (h : Running P p s) {q : Phase} (hmode : modeFits q = modeFits p) (hwrite : inWrite q = inWrite p)
    (havail : afterAvailable q = afterAvailable p) (hfree : afterFreeSpace q = afterFreeSpace p) : Running P q s where
  budget_le := h.budget_le
  cnt_le := h.cnt_le
  mode := hmode ▸ h.mode
  buf_fits := hwrite ▸ h.buf_fits
  len_fits := by rw [havail, hfree]; exact h.len_fits

theorem siteWait_of_siteStat {site : PollSite} (h : Running P (siteStat site) s) : Running P (siteWait site) s := by
  cases site <;> exact h.samePart rfl rfl rfl rfl

theorem siteStat_of_siteWait {site : PollSite} (h : Running P (siteWait site) s) : Running P (siteStat site) s := by
  cases site <;> exact h.samePart rfl rfl rfl rfl

/-- READ and WRITE poll in `On`. -/
theorem pwr_on {site : PollSite} (h : Running P (siteWait site) s) (hsite : site ≠ .init) : s.pwr = .on := by
  have hmode := h.mode
  cases site with
  | init => exact absurd rfl hsite
  | read2 | read5 | write2 | write5 | write7 => simpa [modeFits, siteWait] using hmode

theorem inv_onTimeout {site : PollSite} (h : Running P (siteWait site) s) : Inv P (onTimeout site s) := by
  cases site with
  | init => exact inv_takeError h.budget_le (.inl rfl)
  | read2 | read5 => exact inv_respond h.budget_le (.inl (h.pwr_on nofun)) _ _ _
  | write2 | write5 | write7 => exact inv_takeError h.budget_le (.inr (h.pwr_on nofun))

theorem inv_onSuccess {site : PollSite} (h : Running P (siteWait site) s) : Inv P (onSuccess site s) := by
  cases site with
  | init => exact inv_respond (s := { s with pwr := .on }) h.budget_le (.inl rfl) _ _ _
  | read2 | read5 | write2 | write5 =>
    exact inv ⟨h.budget_le, h.cnt_le, h.mode, h.buf_fits, h.len_fits⟩ nofun nofun nofun
  | write7 => exact inv_respond h.budget_le (.inl (h.pwr_on nofun)) _ _ _

theorem inv_nextAttempt {site : PollSite} (h : Running P (siteWait site) s) : Inv P (nextAttempt site s) := by
  unfold nextAttempt
  split
  · exact h.inv_onTimeout
  · rename_i hleft
    refine inv (t := { s with seq := siteWait site })
      ⟨h.budget_le, h.cnt_le, h.mode, h.buf_fits, h.len_fits⟩ ?_ ?_ ?_
    · cases site <;> nofun
    · cases site <;> nofun
    · intro site' hsite
      have hsame : site' = site := by simpa [siteOf] using hsite.symm
      subst hsame
      cases site' <;> exact Nat.one_le_iff_ne_zero.mpr hleft

theorem inv_beginPoll {site : PollSite} (h : Running P (siteWait site) s) : Inv P (beginPoll P site s) :=
  (h.loadCounter site).inv_nextAttempt

/-! The exchanges. -/

theorem inv_exchange {out : List Byte} {g : List Byte → State → State} (h : Running P p s)
    (hg : ∀ inn u, Running P p u → Inv P (g inn u)) : Inv P (exchange out busFail g s) := by
  rcases exchange_cases out busFail g s with ⟨-, heq⟩ | ⟨inn, -, -, heq⟩ <;> rw [heq]
  · exact inv_busFail h.budget_le
  · exact hg inn _ (h.afterExchange out)

theorem inv_statusAttempt {site : PollSite} (h : Running P (siteStat site) s) : Inv P (statusAttempt P site s) := by
  refine (h.siteWait_of_siteStat.spendAttempt site).inv_exchange fun inn u hu => ?_
  split
  · exact hu.inv_onSuccess
  · exact hu.inv_nextAttempt

theorem inv_configPhase {site : PollSite} (h : Running P (siteWait site) s) (hsite : site ≠ .init)
    (frame : Except FrameError (List Byte)) : Inv P (configPhase P site frame s) := by
  match frame with
  | .error .invalidArgument => exact inv_takeError h.budget_le (.inr (h.pwr_on hsite))
  | .ok out => exact h.inv_exchange fun _ _ hu => hu.inv_beginPoll

theorem inv_takeAvailable (h : Running P .rDatL s) (inn : List Byte) : Inv P (takeAvailable inn s) := by
  unfold takeAvailable
  split
  · exact inv_respond h.budget_le (.inl (eq_of_beq h.mode)) _ _ _
  · rename_i hlen
    exact inv ⟨h.budget_le, h.cnt_le, h.mode, h.buf_fits, hlen⟩ nofun nofun nofun

theorem inv_takeFreeSpace (h : Running P .wDatL s) (inn : List Byte) : Inv P (takeFreeSpace inn s) := by
  unfold takeFreeSpace
  split
  · exact inv_takeError h.budget_le (.inr (eq_of_beq h.mode))
  · rename_i hfits
    exact inv ⟨h.budget_le, h.cnt_le, h.mode, h.buf_fits, Nat.le_of_not_lt hfits⟩ nofun nofun nofun

end Running

/-! ### Every kind of step keeps the legal states -/

theorem Inv.tick {P : Params} {s : State} (h : Inv P s) : Inv P (tick s) := inv_congr h rfl rfl rfl rfl rfl rfl

theorem Inv.takeCommand {P : Params} {s : State} (h : Inv P s) : Inv P (takeCommand s) :=
  inv_congr h rfl rfl rfl rfl rfl rfl

theorem Inv.delayStep {P : Params} {s : State} {site : PollSite} (h : Inv P s) (hs : s.seq = siteWait site) :
    Inv P (delayStep P site s) := by
  have hr : Running P (siteStat site) s := (hs ▸ h.running : Running P (siteWait site) s).siteStat_of_siteWait
  have hleft : 1 ≤ remaining site s := h.attempts site (by simp [hs, siteOf])
  refine Running.inv ⟨hr.budget_le, hr.cnt_le, hr.mode, hr.buf_fits, hr.len_fits⟩ ?_ ?_ ?_
  · cases site <;> nofun
  · cases site <;> nofun
  · cases site <;> rintro _ ⟨⟩ <;> exact hleft

/-- The frame of a phase, executed in a legal state. -/
theorem Inv.exec_phaseFrame {s t : State} {i : Instr} (h : Inv Config.params s)
    (hi : phaseFrame Config.params s = some i) (ht : exec i s = .next t) : Inv Config.params t := by
  have hr := h.running
  rcases exec_phaseFrame_cases hi ht with ⟨site, hs, -, rfl⟩ | ⟨hs, -, rfl⟩ | ⟨site, reg, l, hconfig, -, rfl⟩ |
    ⟨hs, -, rfl⟩ | ⟨hs, -, rfl⟩ | ⟨hs, -, rfl⟩ | ⟨hs, -, rfl⟩ | ⟨hs, -, rfl⟩ | ⟨hs, -, rfl⟩
  · exact (hs ▸ hr).inv_statusAttempt
  · exact (hs ▸ hr).inv_exchange fun _ _ hu => Running.inv_beginPoll (site := .init) (hu.samePart rfl rfl rfl rfl)
  · rcases hconfig with ⟨hs, rfl, -⟩ | ⟨hs, rfl, -⟩ | ⟨hs, rfl, -⟩ <;>
      exact Running.inv_configPhase ((hs ▸ hr).samePart rfl rfl rfl rfl) (by decide) _
  · exact Running.inv_configPhase ((hs ▸ hr).samePart rfl rfl rfl rfl) (by decide) _
  · exact (hs ▸ hr).inv_exchange fun inn _ hu => hu.inv_takeAvailable inn
  · exact (hs ▸ hr).inv_exchange fun inn _ hu => hu.inv_takeFreeSpace inn
  · exact (hs ▸ hr).inv_exchange fun _ _ hu => inv_respond hu.budget_le (.inl (eq_of_beq hu.mode)) _ _ _
  · exact (hs ▸ hr).inv_exchange fun _ _ hu => Running.inv_beginPoll (site := .write7) (hu.samePart rfl rfl rfl rfl)
  · rcases exchange_cases (encPowerOff Config.params) (endSession Config.params .busUnavailable)
      (fun _ => endSession Config.params .ok) s with ⟨-, heq⟩ | ⟨-, -, -, heq⟩ <;> rw [heq] <;>
      exact inv_endSession _ _ _

section Acceptance

variable {P : Params} {s : State}

/-- A command that is refused at `IDLE` changes neither the budget nor the mode. -/
theorem Inv.takeError_of_idle (h : Inv P s) (hs : s.seq = .idle) {c : RespCode} (hc : fatal c = false) :
    Inv P (takeError c s) :=
  have hmode : s.pwr ≠ .poweringOn := by simpa [hs, modeFits] using h.mode
  inv_of_idle rfl rfl rfl rfl h.budget_le (by simpa [hc] using h.budget_off) (by simpa [hc] using hmode)

theorem Inv.acceptInit (h : Inv P s) (hs : s.seq = .idle) : Inv P (acceptInit s) := by
  have hr := h.running
  rw [hs] at hr
  unfold Machine.acceptInit
  split
  · rename_i hoff
    exact Running.inv ⟨hr.budget_le, hr.cnt_le, rfl, hr.buf_fits, hr.len_fits⟩ nofun (fun _ => h.budget_off hoff) nofun
  · exact h.takeError_of_idle hs rfl

theorem Inv.acceptRead (h : Inv P s) (hs : s.seq = .idle) : Inv P (acceptRead s) := by
  have hr := h.running
  rw [hs] at hr
  unfold Machine.acceptRead
  split
  · rename_i hon
    exact Running.inv ⟨hr.budget_le, hr.cnt_le, beq_iff_eq.mpr hon, hr.buf_fits, hr.len_fits⟩ nofun nofun nofun
  · exact h.takeError_of_idle hs rfl

theorem Inv.acceptWrite (h : Inv P s) (hs : s.seq = .idle) {p : List Byte} (hp : p.length < 2 ^ 32) :
    Inv P (acceptWrite p s) := by
  have hr := h.running
  rw [hs] at hr
  unfold Machine.acceptWrite
  split
  · rename_i hon
    split
    · exact h.takeError_of_idle hs rfl
    · rename_i hne
      exact Running.inv ⟨hr.budget_le, hr.cnt_le, beq_iff_eq.mpr hon, ⟨Nat.one_le_iff_ne_zero.mpr hne, hp⟩, hr.len_fits⟩
        nofun nofun nofun
  · exact h.takeError_of_idle hs rfl

theorem Inv.acceptRelease (h : Inv P s) (hs : s.seq = .idle) : Inv P (acceptRelease P s) := by
  have hr := h.running
  rw [hs] at hr
  unfold Machine.acceptRelease
  split
  · rename_i hon
    exact Running.inv ⟨hr.budget_le, hr.cnt_le, beq_iff_eq.mpr hon, hr.buf_fits, hr.len_fits⟩ nofun nofun nofun
  · exact inv_endSession _ _ _

end Acceptance

/-- A command accepted in a legal idle state. -/
theorem Inv.exec_command {s t : State} {w : PortWord} {i : Instr} (h : Inv Config.params s) (hs : s.seq = .idle)
    (hi : decodeCommand w = .ok i) (ht : exec i s = .next t) : Inv Config.params t := by
  rcases decodeCommand_cases hi with rfl | rfl | ⟨rfl, hp⟩ | rfl
  · rw [exec_init_of_idle hs] at ht; cases ht; exact h.acceptInit hs
  · rw [exec_read_of_idle hs] at ht; cases ht; exact h.acceptRead hs
  · rw [exec_write_of_idle hs] at ht; cases ht; exact h.acceptWrite hs hp
  · rw [exec_release_of_idle hs] at ht; cases ht; exact h.acceptRelease hs

/-- Settles O43: each of the five kinds of step keeps the legal states. -/
theorem stepKeepsTheInvariant : Obligations.StepKeepsTheInvariant := by
  intro s t h ht
  rcases step_cases ht with ⟨-, rfl⟩ | ⟨-, -, rfl⟩ | ⟨site, hs, rfl⟩ | ⟨i, hi, hexec⟩ | ⟨w, rest, i, hs, -, hi, hexec⟩
  · exact inv_assertReset _ _
  · exact h.tick
  · exact h.tick.delayStep hs
  · exact h.tick.exec_phaseFrame hi hexec
  · exact h.tick.takeCommand.exec_command hs hi hexec

/-! ### One response ends a command -/

/-- From `s` to `t` exactly one response is added and the block is idle and cleared (R27). -/
def Ends (s t : State) : Prop :=
  ∃ r, responses t.trace = responses s.trace ++ [r] ∧ t.seq = .idle ∧ t.cnt = 0 ∧ t.len = 0#32 ∧ t.buf = []

/-- From `s` to `t` the command ends with its response, or no response is added and the block is busy. -/
def EndsOrBusy (s t : State) : Prop :=
  Ends s t ∨ (responses t.trace = responses s.trace ∧ t.seq ≠ .idle)

/-- `EndsOrBusy` looks at nothing of the earlier state but the responses recorded. -/
theorem EndsOrBusy.congr {s s' t : State} (h : EndsOrBusy s t) (hr : responses s.trace = responses s'.trace) :
    EndsOrBusy s' t := by
  unfold EndsOrBusy Ends at h ⊢
  rwa [← hr]

theorem endsOrBusy_respond (c : RespCode) (d : List Byte) (x : Detail) {s t : State} (ht : t.trace = s.trace) :
    EndsOrBusy s (respond c d x t) :=
  .inl ⟨(c, d, x), by simp [ht], rfl, rfl, rfl, rfl⟩

theorem endsOrBusy_takeError (c : RespCode) {s t : State} (ht : t.trace = s.trace) : EndsOrBusy s (takeError c t) :=
  .inl ⟨(c, [], .none), by simp [ht], rfl, rfl, rfl, rfl⟩

theorem endsOrBusy_endSession (P : Params) (c : RespCode) (s : State) : EndsOrBusy s (endSession P c s) :=
  .inl ⟨(c, [], .none), by simp, rfl, rfl, rfl, rfl⟩

theorem endsOrBusy_of_seq {s t : State} (ht : t.trace = s.trace) (hseq : t.seq ≠ .idle) : EndsOrBusy s t :=
  .inr ⟨by rw [ht], hseq⟩

theorem endsOrBusy_onSuccess (site : PollSite) (s : State) : EndsOrBusy s (onSuccess site s) := by
  cases site with
  | init | write7 => exact endsOrBusy_respond _ _ _ rfl
  | read2 | read5 | write2 | write5 => exact endsOrBusy_of_seq rfl nofun

theorem endsOrBusy_onTimeout (site : PollSite) (s : State) : EndsOrBusy s (onTimeout site s) := by
  cases site with
  | read2 | read5 => exact endsOrBusy_respond _ _ _ rfl
  | init | write2 | write5 | write7 => exact endsOrBusy_takeError _ rfl

theorem endsOrBusy_nextAttempt (site : PollSite) (s : State) : EndsOrBusy s (nextAttempt site s) := by
  unfold nextAttempt
  split
  · exact endsOrBusy_onTimeout site s
  · exact endsOrBusy_of_seq rfl (by cases site <;> nofun)

theorem endsOrBusy_beginPoll (P : Params) (site : PollSite) (s : State) : EndsOrBusy s (beginPoll P site s) :=
  (endsOrBusy_nextAttempt site _).congr (by simp)

/-- An exchange is no response: what follows it decides. -/
theorem endsOrBusy_exchange {out : List Byte} {f : State → State} {g : List Byte → State → State} {s : State}
    (hf : ∀ u, EndsOrBusy u (f u)) (hg : ∀ inn u, EndsOrBusy u (g inn u)) : EndsOrBusy s (exchange out f g s) := by
  have hr : responses (afterExchange out s).trace = responses s.trace := by simp
  rcases exchange_cases out f g s with ⟨-, heq⟩ | ⟨inn, -, -, heq⟩ <;> rw [heq]
  · exact (hf _).congr hr
  · exact (hg inn _).congr hr

theorem endsOrBusy_busFail (s : State) : EndsOrBusy s (busFail s) := endsOrBusy_takeError _ rfl

theorem endsOrBusy_statusAttempt (P : Params) (site : PollSite) (s : State) :
    EndsOrBusy s (statusAttempt P site s) := by
  refine (endsOrBusy_exchange (s := spendAttempt site s) endsOrBusy_busFail fun inn u => ?_).congr (by simp)
  split
  · exact endsOrBusy_onSuccess site u
  · exact endsOrBusy_nextAttempt site u

theorem endsOrBusy_configPhase (P : Params) (site : PollSite) (frame : Except FrameError (List Byte)) (s : State) :
    EndsOrBusy s (configPhase P site frame s) := by
  match frame with
  | .error .invalidArgument => exact endsOrBusy_takeError _ rfl
  | .ok out => exact endsOrBusy_exchange endsOrBusy_busFail fun _ => endsOrBusy_beginPoll P site

theorem endsOrBusy_takeAvailable (inn : List Byte) (s : State) : EndsOrBusy s (takeAvailable inn s) := by
  unfold takeAvailable
  split
  · exact endsOrBusy_respond _ _ _ rfl
  · exact endsOrBusy_of_seq rfl nofun

theorem endsOrBusy_takeFreeSpace (inn : List Byte) (s : State) : EndsOrBusy s (takeFreeSpace inn s) := by
  unfold takeFreeSpace
  split
  · exact endsOrBusy_takeError _ rfl
  · exact endsOrBusy_of_seq rfl nofun

theorem endsOrBusy_phaseFrame {s t : State} {i : Instr} (hi : phaseFrame Config.params s = some i)
    (ht : exec i s = .next t) : EndsOrBusy s t := by
  rcases exec_phaseFrame_cases hi ht with ⟨site, -, -, rfl⟩ | ⟨-, -, rfl⟩ | ⟨site, reg, l, -, -, rfl⟩ |
    ⟨-, -, rfl⟩ | ⟨-, -, rfl⟩ | ⟨-, -, rfl⟩ | ⟨-, -, rfl⟩ | ⟨-, -, rfl⟩ | ⟨-, -, rfl⟩
  · exact endsOrBusy_statusAttempt _ site s
  · exact endsOrBusy_exchange endsOrBusy_busFail fun _ => endsOrBusy_beginPoll _ .init
  · exact endsOrBusy_configPhase _ site _ s
  · exact endsOrBusy_configPhase _ .write5 _ s
  · exact endsOrBusy_exchange endsOrBusy_busFail endsOrBusy_takeAvailable
  · exact endsOrBusy_exchange endsOrBusy_busFail endsOrBusy_takeFreeSpace
  · exact endsOrBusy_exchange endsOrBusy_busFail fun _ _ => endsOrBusy_respond _ _ _ rfl
  · exact endsOrBusy_exchange endsOrBusy_busFail fun _ => endsOrBusy_beginPoll _ .write7
  · exact endsOrBusy_exchange (endsOrBusy_endSession _ _) fun _ => endsOrBusy_endSession _ _

/-- A command accepted at `IDLE` is refused with its response or in progress. -/
theorem endsOrBusy_command {s t : State} {w : PortWord} {i : Instr} (hs : s.seq = .idle) (hi : decodeCommand w = .ok i)
    (ht : exec i s = .next t) : EndsOrBusy s t := by
  rcases decodeCommand_cases hi with rfl | rfl | ⟨rfl, -⟩ | rfl
  · rw [exec_init_of_idle hs] at ht; cases ht
    unfold acceptInit
    split
    · exact endsOrBusy_of_seq rfl nofun
    · exact endsOrBusy_takeError _ rfl
  · rw [exec_read_of_idle hs] at ht; cases ht
    unfold acceptRead
    split
    · exact endsOrBusy_of_seq rfl nofun
    · exact endsOrBusy_takeError _ rfl
  · rw [exec_write_of_idle hs] at ht; cases ht
    unfold acceptWrite
    split_ifs
    · exact endsOrBusy_takeError _ rfl
    · exact endsOrBusy_of_seq rfl nofun
    · exact endsOrBusy_takeError _ rfl
  · rw [exec_release_of_idle hs] at ht; cases ht
    unfold acceptRelease
    split
    · exact endsOrBusy_of_seq rfl nofun
    · exact endsOrBusy_endSession _ _ s

/-- Settles O47: a frame or a command ends or is busy, a delay is busy, reset and waiting are named in the statement. -/
theorem oneResponseEndsACommand : Obligations.OneResponseEndsACommand := by
  intro s t ht
  rcases step_cases ht with ⟨hr, rfl⟩ | ⟨hs, hp, rfl⟩ | ⟨site, -, rfl⟩ | ⟨i, hi, hexec⟩ | ⟨w, rest, i, hs, -, hi, hexec⟩
  · exact .inr ⟨rfl, .inr (.inl hr)⟩
  · exact .inr ⟨rfl, .inr (.inr ⟨hs, hp⟩)⟩
  · exact .inr ⟨by simp, .inl (by cases site <;> nofun)⟩
  · have hframe : EndsOrBusy (tick s) t := endsOrBusy_phaseFrame hi hexec
    exact Or.imp_right (And.imp_right Or.inl) hframe
  · have hcommand : EndsOrBusy (takeCommand (tick s)) t := endsOrBusy_command hs hi hexec
    exact Or.imp_right (And.imp_right Or.inl) hcommand

end Sys2Proof.Machine
end

section
/-! Proofs of the statements about what a step reaches outside the block (20_memory.md): the frame of a phase read back, the
one exchange a step can make, and the command port. -/

namespace Sys2Proof

/-! ### The frame of an instruction, read back -/

/-- `le32` undone (R10). -/
theorem unle32_le32_bytes (v : U32) :
    unle32 (v.extractLsb' 0 8) (v.extractLsb' 8 8) (v.extractLsb' 16 8) (v.extractLsb' 24 8) = v := by
  apply BitVec.eq_of_toNat_eq
  have hv := v.isLt
  simp only [unle32, BitVec.toNat_add, BitVec.toNat_mul, BitVec.toNat_setWidth, BitVec.extractLsb'_toNat,
    BitVec.toNat_ofNat, Nat.shiftRight_eq_div_pow]
  omega

/-- Both operands of a config frame come back, the length from its field plus one (R86). -/
theorem decodeConfig_le32 (mk : U32 → Nat → BusFrame) (a : U32) {l : U32} (hl : l ≠ 0#32) :
    decodeConfig mk (le32 a ++ le32 (l - 1#32)) = .ok (mk a l.toNat) := by
  have hlen : (l - 1#32).toNat + 1 = l.toNat := by
    have hpos : l.toNat ≠ 0 := fun h => hl (BitVec.eq_of_toNat_eq h)
    have hlt := l.isLt
    rw [BitVec.toNat_sub, BitVec.toNat_ofNat]
    omega
  simp only [le32, List.cons_append, List.nil_append, decodeConfig, unle32_le32_bytes, hlen]

/-- The frame that an instruction puts on the bus, with its operands; none for POLL and the host commands. -/
def Instr.busFrame : Instr → Option BusFrame
  | .statusRead => some .statusRead
  | .configRead address length => some (.configRead address length.toNat)
  | .configWrite address length => some (.configWrite address length.toNat)
  | .dataRead count => some (.dataRead count.toNat)
  | .dataWrite payload => some (.dataWrite payload)
  | .powerOn => some .powerOn
  | .powerOff => some .powerOff
  | .poll _ _ | .init | .read | .write _ | .release => none

/-- The words of a config frame are its bytes, where it can be built. -/
theorem toOption_map_frame_eq_some {e : Except FrameError (List Byte)} {out : List Byte} :
    e.toOption.map Encoded.frame = some (.frame out) ↔ e = .ok out := by
  match e with
  | .error _ => exact iff_of_false nofun nofun
  | .ok _ => simp [Except.toOption]

/-- The bytes of an instruction's frame are that frame (R95). -/
theorem decodeFrame_of_encode {P : Params} {i : Instr} {out : List Byte} (h : encode P i = some (.frame out)) :
    ∃ f, i.busFrame = some f ∧ decodeFrame P out = .ok f := by
  cases i with
  | configRead a l =>
    obtain ⟨hl, rfl⟩ := encConfig_eq_ok.mp (toOption_map_frame_eq_some.mp h)
    exact ⟨_, rfl, by simp only [decodeFrame, Params.opcodeOf_opcode, decodeConfig_le32 _ _ hl]⟩
  | configWrite a l =>
    obtain ⟨hl, rfl⟩ := encConfig_eq_ok.mp (toOption_map_frame_eq_some.mp h)
    exact ⟨_, rfl, by simp only [decodeFrame, Params.opcodeOf_opcode, decodeConfig_le32 _ _ hl]⟩
  | statusRead | dataRead _ | dataWrite _ | powerOn | powerOff =>
    cases h
    exact ⟨_, rfl, by simp [encStatusRead, encDataRead, encDataWrite, encPowerOn, encPowerOff, decodeFrame, decodeFixed]⟩
  | poll _ _ | init | read | write _ | release => cases h

end Sys2Proof

namespace Sys2Proof.Machine

/-! ### What a step records of the bus, and the command port

`Quiet` and `Sends` say what a part of a step does to the two things outside the block that it can touch: it takes no command
from the port, and it records no exchange, or exactly one. -/

/-- From `s` to `t` the port is left and no exchange is recorded. -/
structure Quiet (s t : State) : Prop where
  port_eq : t.port = s.port
  trace_eq : ∃ more, t.trace = s.trace ++ more ∧ exchangeCount more = 0

/-- From `s` to `t` the port is left and exactly one exchange is recorded, that of `out`, before anything else. -/
structure Sends (out : List Byte) (s t : State) : Prop where
  port_eq : t.port = s.port
  trace_eq : ∃ answer more, t.trace = s.trace ++ .exchange out answer :: more ∧ exchangeCount more = 0

/-- `Quiet` looks at nothing of the earlier state but its port and its record. -/
theorem Quiet.congr {s s' t : State} (h : Quiet s t) (hp : s.port = s'.port) (ht : s.trace = s'.trace) : Quiet s' t :=
  ⟨hp ▸ h.port_eq, ht ▸ h.trace_eq⟩

theorem Sends.congr {out : List Byte} {s s' t : State} (h : Sends out s t) (hp : s.port = s'.port)
    (ht : s.trace = s'.trace) : Sends out s' t :=
  ⟨hp ▸ h.port_eq, ht ▸ h.trace_eq⟩

/-- After a quiet part no exchange comes next in the record. -/
theorem Quiet.trace_ne {s t : State} (h : Quiet s t) (out : List Byte) (answer : Option (List Byte)) (more : List Event) :
    t.trace ≠ s.trace ++ .exchange out answer :: more := by
  obtain ⟨more', ht, hnone⟩ := h.trace_eq
  intro heq
  have hmore : more' = .exchange out answer :: more := List.append_cancel_left (ht.symm.trans heq)
  simp [hmore] at hnone

/-- The exchange that comes next in the record is the one that was sent. -/
theorem Sends.out_eq {out out' : List Byte} {s t : State} {answer : Option (List Byte)} {more : List Event}
    (h : Sends out s t) (heq : t.trace = s.trace ++ .exchange out' answer :: more) : out' = out := by
  obtain ⟨answer', more', ht, -⟩ := h.trace_eq
  have hcons := List.append_cancel_left (heq.symm.trans ht)
  simp only [List.cons.injEq, Event.exchange.injEq] at hcons
  exact hcons.1.1

/-! #### The parts of a step without an exchange -/

theorem quiet_of_eq {s t : State} (hp : t.port = s.port) (ht : t.trace = s.trace) : Quiet s t :=
  ⟨hp, [], by simp [ht], rfl⟩

theorem quiet_respond (c : RespCode) (d : List Byte) (x : Detail) {s t : State} (hp : t.port = s.port)
    (ht : t.trace = s.trace) : Quiet s (respond c d x t) :=
  ⟨hp, [.response c d x], by simp [ht], rfl⟩

theorem quiet_takeError (c : RespCode) {s t : State} (hp : t.port = s.port) (ht : t.trace = s.trace) :
    Quiet s (takeError c t) :=
  quiet_respond c [] .none hp ht

theorem quiet_busFail (s : State) : Quiet s (busFail s) := quiet_takeError _ rfl rfl

theorem quiet_endSession (P : Params) (c : RespCode) (s : State) : Quiet s (endSession P c s) :=
  quiet_respond c [] .none rfl rfl

theorem quiet_delayStep (P : Params) (site : PollSite) (s : State) : Quiet s (delayStep P site s) :=
  ⟨rfl, [.delay P.attemptInterval], rfl, rfl⟩

theorem quiet_onSuccess (site : PollSite) (s : State) : Quiet s (onSuccess site s) := by
  cases site with
  | init | write7 => exact quiet_respond _ _ _ rfl rfl
  | read2 | read5 | write2 | write5 => exact quiet_of_eq rfl rfl

theorem quiet_onTimeout (site : PollSite) (s : State) : Quiet s (onTimeout site s) := by
  cases site with
  | read2 | read5 => exact quiet_respond _ _ _ rfl rfl
  | init | write2 | write5 | write7 => exact quiet_takeError _ rfl rfl

theorem quiet_nextAttempt (site : PollSite) (s : State) : Quiet s (nextAttempt site s) := by
  unfold nextAttempt
  split
  · exact quiet_onTimeout site s
  · exact quiet_of_eq rfl rfl

theorem quiet_beginPoll (P : Params) (site : PollSite) (s : State) : Quiet s (beginPoll P site s) :=
  (quiet_nextAttempt site _).congr (by simp) (by simp)

theorem quiet_takeAvailable (inn : List Byte) (s : State) : Quiet s (takeAvailable inn s) := by
  unfold takeAvailable
  split
  · exact quiet_respond _ _ _ rfl rfl
  · exact quiet_of_eq rfl rfl

theorem quiet_takeFreeSpace (inn : List Byte) (s : State) : Quiet s (takeFreeSpace inn s) := by
  unfold takeFreeSpace
  split
  · exact quiet_takeError _ rfl rfl
  · exact quiet_of_eq rfl rfl

/-- A command accepted at `IDLE` sends nothing: its frames are steps of their own (R5). -/
theorem quiet_command {s t : State} {w : PortWord} {i : Instr} (hs : s.seq = .idle) (hi : decodeCommand w = .ok i)
    (ht : exec i s = .next t) : Quiet s t := by
  rcases decodeCommand_cases hi with rfl | rfl | ⟨rfl, -⟩ | rfl
  · rw [exec_init_of_idle hs] at ht; cases ht
    unfold acceptInit
    split
    · exact quiet_of_eq rfl rfl
    · exact quiet_takeError _ rfl rfl
  · rw [exec_read_of_idle hs] at ht; cases ht
    unfold acceptRead
    split
    · exact quiet_of_eq rfl rfl
    · exact quiet_takeError _ rfl rfl
  · rw [exec_write_of_idle hs] at ht; cases ht
    unfold acceptWrite
    split_ifs
    · exact quiet_takeError _ rfl rfl
    · exact quiet_of_eq rfl rfl
    · exact quiet_takeError _ rfl rfl
  · rw [exec_release_of_idle hs] at ht; cases ht
    unfold acceptRelease
    split
    · exact quiet_of_eq rfl rfl
    · exact quiet_endSession _ _ s

/-! #### The exchanges -/

/-- An exchange is the only one when what follows it is quiet. -/
theorem sends_exchange {out : List Byte} {f : State → State} {g : List Byte → State → State} {s : State}
    (hf : ∀ u, Quiet u (f u)) (hg : ∀ inn u, Quiet u (g inn u)) : Sends out s (exchange out f g s) := by
  have hafter : ∀ {t}, Quiet (afterExchange out s) t → Sends out s t := by
    intro t h
    obtain ⟨more, ht, hnone⟩ := h.trace_eq
    exact ⟨h.port_eq, answerFor out s, more, by simp [ht], hnone⟩
  rcases exchange_cases out f g s with ⟨-, heq⟩ | ⟨inn, -, -, heq⟩ <;> rw [heq]
  · exact hafter (hf _)
  · exact hafter (hg inn _)

theorem sends_statusAttempt (P : Params) (site : PollSite) (s : State) :
    Sends (encStatusRead P) s (statusAttempt P site s) := by
  refine (sends_exchange (s := spendAttempt site s) quiet_busFail fun inn u => ?_).congr (by simp) (by simp)
  split
  · exact quiet_onSuccess site u
  · exact quiet_nextAttempt site u

/-- A config frame that cannot be built puts nothing on the bus (R110). -/
theorem quiet_or_sends_configPhase (P : Params) (site : PollSite) (frame : Except FrameError (List Byte)) (s : State) :
    Quiet s (configPhase P site frame s) ∨ ∃ out, frame = .ok out ∧ Sends out s (configPhase P site frame s) := by
  match frame with
  | .error .invalidArgument => exact .inl (quiet_takeError _ rfl rfl)
  | .ok out => exact .inr ⟨out, rfl, sends_exchange quiet_busFail fun _ => quiet_beginPoll P site⟩

/-- The frame of a phase, executed: nothing goes on the bus, or the words of that frame and no others. -/
theorem quiet_or_sends_phaseFrame {s t : State} {i : Instr} (hi : phaseFrame Config.params s = some i)
    (ht : exec i s = .next t) :
    Quiet s t ∨ ∃ out, encode Config.params i = some (.frame out) ∧ Sends out s t := by
  rcases exec_phaseFrame_cases hi ht with ⟨site, -, rfl, rfl⟩ | ⟨-, rfl, rfl⟩ | ⟨site, reg, l, -, rfl, rfl⟩ |
    ⟨-, rfl, rfl⟩ | ⟨-, rfl, rfl⟩ | ⟨-, rfl, rfl⟩ | ⟨-, rfl, rfl⟩ | ⟨-, rfl, rfl⟩ | ⟨-, rfl, rfl⟩
  · exact .inr ⟨_, rfl, sends_statusAttempt _ site s⟩
  · exact .inr ⟨_, rfl, sends_exchange quiet_busFail fun _ => quiet_beginPoll _ .init⟩
  · exact (quiet_or_sends_configPhase _ site _ s).imp_right fun ⟨out, hout, hsends⟩ =>
      ⟨out, toOption_map_frame_eq_some.mpr hout, hsends⟩
  · exact (quiet_or_sends_configPhase _ .write5 _ s).imp_right fun ⟨out, hout, hsends⟩ =>
      ⟨out, toOption_map_frame_eq_some.mpr hout, hsends⟩
  · exact .inr ⟨_, rfl, sends_exchange quiet_busFail quiet_takeAvailable⟩
  · exact .inr ⟨_, rfl, sends_exchange quiet_busFail quiet_takeFreeSpace⟩
  · exact .inr ⟨_, rfl, sends_exchange quiet_busFail fun _ _ => quiet_respond _ _ _ rfl rfl⟩
  · exact .inr ⟨_, rfl, sends_exchange quiet_busFail fun _ => quiet_beginPoll _ .write7⟩
  · exact .inr ⟨_, rfl, sends_exchange (quiet_endSession _ _) fun _ => quiet_endSession _ _⟩

/-! ### The command port -/

/-- Settles O17: a busy step is reset, a delay or a frame, and none of the three touches the port. -/
theorem busyStepsLeaveThePort : Obligations.BusyStepsLeaveThePort := by
  intro s t hbusy ht
  rcases step_cases ht with ⟨-, rfl⟩ | ⟨hs, -, -⟩ | ⟨site, -, rfl⟩ | ⟨i, hi, hexec⟩ | ⟨w, rest, i, hs, -⟩
  · rfl
  · exact absurd hs hbusy
  · rfl
  · rcases quiet_or_sends_phaseFrame (s := tick s) hi hexec with h | ⟨out, -, h⟩ <;> exact h.port_eq
  · exact absurd hs hbusy

/-! ### The step that a frame comes from -/

/-- An exchange that a step adds is the frame of the step's phase. -/
theorem phaseFrame_of_step_exchange {s t : State} {out : List Byte} {answer : Option (List Byte)} {more : List Event}
    (ht : step s = .next t) (htrace : t.trace = s.trace ++ .exchange out answer :: more) :
    ∃ i, phaseFrame Config.params s = some i ∧ encode Config.params i = some (.frame out) := by
  have hnot : ∀ {u : State}, u.trace = s.trace → ¬ Quiet u t := fun hu h => h.trace_ne out answer more (hu ▸ htrace)
  rcases step_cases ht with ⟨-, rfl⟩ | ⟨-, -, rfl⟩ | ⟨site, -, rfl⟩ | ⟨i, hi, hexec⟩ | ⟨w, rest, i, hs, -, hi, hexec⟩
  · exact absurd (quiet_of_eq rfl rfl) (hnot rfl)
  · exact absurd (quiet_of_eq rfl rfl) (hnot rfl)
  · exact absurd (quiet_delayStep _ site (tick s)) (hnot rfl)
  · rcases quiet_or_sends_phaseFrame (s := tick s) hi hexec with h | ⟨out', henc, h⟩
    · exact absurd h (hnot rfl)
    · exact ⟨i, hi, h.out_eq htrace ▸ henc⟩
  · exact absurd (quiet_command (s := takeCommand (tick s)) hs hi hexec) (hnot rfl)

/-- R56: the step that a frame comes from, and its register and length there. -/
def ComesFromItsStep (P : Params) (s : State) : BusFrame → Prop
  | .configRead a l =>
    (s.seq = .rCfgL ∧ a = P.addrTxLen ∧ l = 4) ∨ (s.seq = .rCfgB ∧ a = P.addrTxBuf ∧ l = s.len.toNat) ∨
    (s.seq = .wCfgL ∧ a = P.addrRxLen ∧ l = 4)
  | .configWrite a l => s.seq = .wCfgB ∧ a = P.addrRxBuf ∧ l = (bufLength s).toNat
  | .dataRead n => (s.seq = .rDatL ∧ n = 4) ∨ (s.seq = .rDatB ∧ n = s.len.toNat) ∨ (s.seq = .wDatL ∧ n = 4)
  | .dataWrite p => s.seq = .wData ∧ p = s.buf
  | .statusRead => ∃ site, s.seq = siteStat site
  | .powerOn => s.seq = .pOn
  | .powerOff => s.seq = .xOff

/-- The frame that a phase issues is the one that R56 names for it. -/
theorem comesFromItsStep_of_phaseFrame {P : Params} {s : State} {i : Instr} {f : BusFrame} (hi : phaseFrame P s = some i)
    (hf : i.busFrame = some f) : ComesFromItsStep P s f := by
  unfold phaseFrame at hi
  cases hs : s.seq <;> rw [hs] at hi <;> cases hi <;> cases hf
  case pStat => exact ⟨.init, hs⟩
  case rStat1 => exact ⟨.read2, hs⟩
  case rStat2 => exact ⟨.read5, hs⟩
  case wStat1 => exact ⟨.write2, hs⟩
  case wStat2 => exact ⟨.write5, hs⟩
  case wStat3 => exact ⟨.write7, hs⟩
  all_goals simp [ComesFromItsStep, hs, Params.address]

/-- Settles O49: the exchange is the frame of the phase, and the frame is read back from its bytes. -/
theorem framesComeFromTheirSteps : Obligations.FramesComeFromTheirSteps := by
  intro s t out answer more ht htrace
  obtain ⟨i, hi, henc⟩ := phaseFrame_of_step_exchange ht htrace
  obtain ⟨f, hf, hdec⟩ := decodeFrame_of_encode henc
  have hstep : ∀ {f'}, decodeFrame Config.params out = .ok f' → ComesFromItsStep Config.params s f' := by
    intro f' hf'
    cases hdec.symm.trans hf'
    exact comesFromItsStep_of_phaseFrame hi hf
  exact ⟨fun _ _ => hstep, fun _ _ => hstep, fun _ => hstep, fun _ => hstep, hstep⟩

end Sys2Proof.Machine
end

section
/-! Proofs of the statements about the encoding (30_encoding.md): the frame a byte sequence is, POLL as its expansion, the
response bytes that are read, and the command port. -/

namespace Sys2Proof

/-! ### Which byte sequences are which frame (R95) -/

/-- The opcode a frame begins with (R88). -/
def BusFrame.opcode : BusFrame → Opcode
  | .statusRead => .statusRead
  | .configRead _ _ => .configRead
  | .configWrite _ _ => .configWrite
  | .dataRead _ => .dataRead
  | .dataWrite _ => .dataWrite
  | .powerOn => .powerOn
  | .powerOff => .powerOff

/-- The frame that the bytes after an opcode byte are: `decodeFrame` behind its byte 0. -/
def decodeRest : Opcode → List Byte → Except DecodeError BusFrame
  | .statusRead, rest => decodeFixed 1 .statusRead rest
  | .configRead, rest => decodeConfig .configRead rest
  | .configWrite, rest => decodeConfig .configWrite rest
  | .dataRead, rest => .ok (.dataRead rest.length)
  | .dataWrite, rest => .ok (.dataWrite rest)
  | .powerOn, rest => decodeFixed 0 .powerOn rest
  | .powerOff, rest => decodeFixed 0 .powerOff rest

theorem decodeFrame_opcode_cons (P : Params) (o : Opcode) (rest : List Byte) :
    decodeFrame P (P.opcode o :: rest) = decodeRest o rest := by
  simp only [decodeFrame, Params.opcodeOf_opcode]
  cases o <;> rfl

/-- A frame of one fixed length is told by that length, whatever its bytes (R95). -/
theorem decodeFixed_eq_ok {count : Nat} {frame b : BusFrame} {rest : List Byte} :
    decodeFixed count frame rest = .ok b ↔ rest.length = count ∧ frame = b := by
  by_cases h : rest.length = count <;> simp [decodeFixed, h]

/-- The operands of format C are in exactly eight bytes (R82, R86). -/
theorem decodeConfig_eq_ok {mk : U32 → Nat → BusFrame} {b : BusFrame} {rest : List Byte} :
    decodeConfig mk rest = .ok b ↔ ∃ a0 a1 a2 a3 m0 m1 m2 m3, rest = [a0, a1, a2, a3, m0, m1, m2, m3] ∧
      mk (unle32 a0 a1 a2 a3) ((unle32 m0 m1 m2 m3).toNat + 1) = b := by
  constructor
  · intro h
    unfold decodeConfig at h
    split at h
    · exact ⟨_, _, _, _, _, _, _, _, rfl, Except.ok.inj h⟩
    · cases h
  · rintro ⟨a0, a1, a2, a3, m0, m1, m2, m3, rfl, rfl⟩
    rfl

/-- The bytes after an opcode byte are a frame of that opcode or none. -/
theorem opcode_of_decodeRest {o : Opcode} {rest : List Byte} {b : BusFrame} (h : decodeRest o rest = .ok b) :
    b.opcode = o := by
  cases o with
  | statusRead | powerOn | powerOff => obtain ⟨-, rfl⟩ := decodeFixed_eq_ok.mp h; rfl
  | configRead | configWrite => obtain ⟨_, _, _, _, _, _, _, _, -, rfl⟩ := decodeConfig_eq_ok.mp h; rfl
  | dataRead | dataWrite => cases h; rfl

/-- A byte sequence is a frame when it begins with the frame's opcode byte and the rest is the frame's (R88, R95). -/
theorem decodeFrame_eq_ok {P : Params} {f : List Byte} {b : BusFrame} :
    decodeFrame P f = .ok b ↔ ∃ rest, f = P.opcode b.opcode :: rest ∧ decodeRest b.opcode rest = .ok b := by
  constructor
  · intro h
    cases f with
    | nil => cases h
    | cons op rest =>
      cases ho : P.opcodeOf op with
      | none => simp [decodeFrame, ho] at h
      | some o =>
        obtain rfl := P.opcodeOf_eq_some.mp ho
        rw [decodeFrame_opcode_cons] at h
        obtain rfl := opcode_of_decodeRest h
        exact ⟨rest, rfl, h⟩
  · rintro ⟨rest, rfl, h⟩
    rw [decodeFrame_opcode_cons, h]

/-- A frame of one fixed length, when it is. -/
theorem decodeFrame_eq_ok_of_fixed {P : Params} {f : List Byte} {b : BusFrame} {count : Nat}
    (hb : decodeRest b.opcode = decodeFixed count b) :
    decodeFrame P f = .ok b ↔ ∃ rest, f = P.opcode b.opcode :: rest ∧ rest.length = count := by
  simp only [decodeFrame_eq_ok, hb, decodeFixed_eq_ok, and_true]

/-- Format C read back (R82, R86): nine bytes, the length its field plus one. -/
theorem decodeFrame_eq_ok_of_config {P : Params} {f : List Byte} {mk : U32 → Nat → BusFrame} {o : Opcode} {a : U32}
    {l : Nat} (hinj : ∀ a' l', mk a' l' = mk a l ↔ a' = a ∧ l' = l) (ho : (mk a l).opcode = o)
    (hb : decodeRest o = decodeConfig mk) :
    decodeFrame P f = .ok (mk a l) ↔ ∃ a0 a1 a2 a3 m0 m1 m2 m3,
      f = [P.opcode o, a0, a1, a2, a3, m0, m1, m2, m3] ∧ a = unle32 a0 a1 a2 a3 ∧
      l = (unle32 m0 m1 m2 m3).toNat + 1 := by
  rw [decodeFrame_eq_ok, ho, hb]
  simp only [decodeConfig_eq_ok, hinj]
  constructor
  · rintro ⟨_, rfl, a0, a1, a2, a3, m0, m1, m2, m3, rfl, rfl, rfl⟩
    exact ⟨a0, a1, a2, a3, m0, m1, m2, m3, rfl, rfl, rfl⟩
  · rintro ⟨a0, a1, a2, a3, m0, m1, m2, m3, rfl, rfl, rfl⟩
    exact ⟨_, rfl, a0, a1, a2, a3, m0, m1, m2, m3, rfl, rfl, rfl⟩

/-- Settles O6: the opcode byte, then the operands of its format. -/
theorem frameDecoding : Obligations.FrameDecoding := by
  intro P f
  refine ⟨?_, fun a l => ?_, fun a l => ?_, fun n => ?_, fun p => ?_, ?_, ?_, fun b h => ?_⟩
  · rw [decodeFrame_eq_ok_of_fixed (count := 1) rfl]
    simp only [List.length_eq_one_iff]
    exact ⟨fun ⟨_, hf, x, hx⟩ => ⟨x, hx ▸ hf⟩, fun ⟨x, hf⟩ => ⟨[x], hf, x, rfl⟩⟩
  · exact decodeFrame_eq_ok_of_config (mk := .configRead) (fun _ _ => by simp) rfl rfl
  · exact decodeFrame_eq_ok_of_config (mk := .configWrite) (fun _ _ => by simp) rfl rfl
  · rw [decodeFrame_eq_ok]
    simp [decodeRest, BusFrame.opcode, Params.opcode]
  · rw [decodeFrame_eq_ok]
    simp [decodeRest, BusFrame.opcode, Params.opcode]
  · rw [decodeFrame_eq_ok_of_fixed (count := 0) rfl]
    simp [BusFrame.opcode, Params.opcode]
  · rw [decodeFrame_eq_ok_of_fixed (count := 0) rfl]
    simp [BusFrame.opcode, Params.opcode]
  · obtain ⟨rest, rfl, -⟩ := decodeFrame_eq_ok.mp h
    exact ⟨b.opcode, rfl⟩

end Sys2Proof

namespace Sys2Proof.Machine

/-! ### POLL is its expansion (R94) -/

/-- An attempt does not look at the phase it stands in: whatever follows the exchange sets the next one. -/
theorem statusAttempt_seq (P : Params) (site : PollSite) (q : Phase) (s : State) :
    statusAttempt P site { s with seq := q } = statusAttempt P site s := by
  have hans : answerFor (encStatusRead P) { s with seq := q } = answerFor (encStatusRead P) s := rfl
  unfold statusAttempt exchange
  simp only [answerFor_spendAttempt, hans]
  cases h : answerFor (encStatusRead P) s with
  | none => cases site <;> rfl
  | some inn =>
    cases hit (statusByte inn) (siteFlag P site) <;> cases site <;> rfl

/-- With no sample of the reset input left a tick changes nothing. -/
theorem tick_of_nil {s : State} (hr : s.resetIn = []) : tick s = s := by
  cases s
  cases hr
  rfl

/-- One attempt of the machine is two steps: the delay, then the status read (R135). -/
theorem run_attempt {s : State} {site : PollSite} (hs : s.seq = siteWait site) (hr : s.resetIn = []) (k : Nat) :
    run (2 * (k + 1)) s = run (2 * k) (statusAttempt Config.params site (delay Config.params s)) := by
  have hdelay : step s = .next (delayStep Config.params site s) := by
    rw [step_of_siteWait (by simp [hr]) hs, tick_of_nil hr]
  have hstat : step (delayStep Config.params site s) =
      .next (statusAttempt Config.params site (delay Config.params s)) := by
    have hi : phaseFrame Config.params (delayStep Config.params site s) = some .statusRead := by cases site <;> rfl
    rw [step_of_phaseFrame (by simp [hr]) hi, tick_of_nil (s := delayStep _ _ s) hr,
      exec_statusRead_of_site (site := site) rfl, delayStep, statusAttempt_seq]
  rw [Nat.mul_succ, run_succ hdelay, run_succ hstat]

/-- The loop's head with attempts left is the site's own delay phase. -/
theorem nextAttempt_of_siteWait {site : PollSite} {s : State} (hs : s.seq = siteWait site) (h : remaining site s ≠ 0) :
    nextAttempt site s = s := by
  rw [nextAttempt, if_neg h, ← hs]

/-- An attempt from its delay on ends the poll as its loop does, or misses and leaves the rest of the loop (R130). -/
theorem statusAttempt_delay_cases (P : Params) (site : PollSite) (done n : Nat) (s : State) :
    let u := afterExchange (encStatusRead P) (spendAttempt site (delay P s))
    statusAttempt P site (delay P s) = concludePoll site (pollLoop P site (siteFlag P site) done (n + 1) s) ∨
    (statusAttempt P site (delay P s) = nextAttempt site u ∧
      pollLoop P site (siteFlag P site) done (n + 1) s = pollLoop P site (siteFlag P site) (done + 1) n u) := by
  rw [pollLoop_succ, statusAttempt]
  cases h : answerFor (encStatusRead P) (delay P s) with
  | none => exact .inl (exchange_of_none (by simpa using h))
  | some inn =>
    rw [exchange_of_some (by simpa using h)]
    by_cases hhit : hit (statusByte inn) (siteFlag P site) = true
    · left; simp only [hhit, if_true, concludePoll]
    · right; simp only [hhit, if_false, Bool.false_eq_true, and_self]

/-- The machine from the head of a poll's loop reaches the loop's conclusion, in two steps an attempt. -/
theorem run_nextAttempt_eq_concludePoll {site : PollSite} (n : Nat) {s : State} (hs : s.seq = siteWait site)
    (hr : s.resetIn = []) (hn : remaining site s = n) (done : Nat) :
    ∃ k, (n ≠ 0 → 1 ≤ k) ∧ k ≤ n ∧ run (2 * k) (nextAttempt site s) =
      .next (concludePoll site (pollLoop Config.params site (siteFlag Config.params site) done n s)) := by
  induction n generalizing s done with
  | zero => exact ⟨0, nofun, le_rfl, by rw [nextAttempt, if_pos hn, pollLoop]; rfl⟩
  | succ n ih =>
    rw [nextAttempt_of_siteWait hs (by simp [hn])]
    rcases statusAttempt_delay_cases Config.params site done n s with hend | ⟨hmiss, hloop⟩
    · exact ⟨1, fun _ => le_rfl, Nat.le_add_left 1 n, by rw [run_attempt hs hr 0, hend]; rfl⟩
    · obtain ⟨k, -, hk, hrun⟩ := ih
        (s := afterExchange (encStatusRead Config.params) (spendAttempt site (delay Config.params s)))
        (by simpa using hs) (by simpa using hr) (by simp [hn]) (done + 1)
      exact ⟨k + 1, fun _ => Nat.le_add_left 1 k, Nat.succ_le_succ hk,
        by rw [run_attempt hs hr k, hmiss, hloop, hrun]⟩

/-- POLL executed at a delay phase, with what its counter holds. -/
theorem exec_poll_of_siteWait {s : State} {site : PollSite} (hs : s.seq = siteWait site) (flag : Byte) :
    exec (.poll flag (remaining site s)) s =
      .next (concludePoll site (pollLoop Config.params site flag 0 (remaining site s) s)) := by
  simp only [exec, execPoll, pollWith, siteOfWait_eq_some.mpr hs, poll, loadCounter_remaining]

/-- Settles O35: the loop concluded, attempt by attempt. -/
theorem pollIsItsExpansion : Obligations.PollIsItsExpansion := by
  intro s site hs hr hpos
  have hne : remaining site s ≠ 0 := Nat.one_le_iff_ne_zero.mp hpos
  obtain ⟨k, hk1, hk, hrun⟩ := run_nextAttempt_eq_concludePoll _ hs hr rfl 0
  rw [nextAttempt_of_siteWait hs hne] at hrun
  exact ⟨k, _, hk1 hne, hk, exec_poll_of_siteWait hs _, hrun⟩

/-! ### Response bytes that are not read (R89) -/

/-- An operation that looks at nothing of the record and only adds to it. -/
def Appends (f : State → State) : Prop :=
  ∀ u, ∃ more, ∀ trace, f { u with trace := trace } = { f u with trace := trace ++ more }

theorem Appends.comp {f g : State → State} (hf : Appends f) (hg : Appends g) : Appends (f ∘ g) := by
  intro u
  obtain ⟨first, hfirst⟩ := hg u
  obtain ⟨second, hsecond⟩ := hf (g u)
  exact ⟨first ++ second, fun trace => by
    rw [Function.comp_apply, hfirst, hsecond, List.append_assoc, Function.comp_apply]⟩

theorem appends_respond (c : RespCode) (d : List Byte) (x : Detail) : Appends (respond c d x) :=
  fun _ => ⟨[.response c d x], fun _ => rfl⟩

theorem appends_takeError (c : RespCode) : Appends (takeError c) := fun _ => ⟨[.response c [] .none], fun _ => rfl⟩

theorem appends_endSession (P : Params) (c : RespCode) : Appends (endSession P c) :=
  fun _ => ⟨[.response c [] .none], fun _ => rfl⟩

theorem appends_spendAttempt (site : PollSite) : Appends (spendAttempt site) :=
  fun u => ⟨[], fun trace => by cases site <;> simp [spendAttempt]⟩

theorem appends_onSuccess (site : PollSite) : Appends (onSuccess site) := by
  intro u
  cases site with
  | init | write7 => exact ⟨[.response .ok [] .none], fun _ => rfl⟩
  | read2 | read5 | write2 | write5 => exact ⟨[], fun _ => by simp [onSuccess]⟩

theorem appends_onTimeout (site : PollSite) : Appends (onTimeout site) := by
  cases site with
  | read2 | read5 => exact appends_respond _ _ _
  | init | write2 | write5 | write7 => exact appends_takeError _

theorem appends_nextAttempt (site : PollSite) : Appends (nextAttempt site) := by
  intro u
  have hrem : ∀ trace, remaining site { u with trace := trace } = remaining site u := by
    cases site <;> exact fun _ => rfl
  unfold nextAttempt
  simp only [hrem]
  split
  · exact appends_onTimeout site u
  · exact ⟨[], fun trace => by simp⟩

theorem appends_beginPoll (P : Params) (site : PollSite) : Appends (beginPoll P site) := by
  intro u
  obtain ⟨more, h⟩ := appends_nextAttempt site (loadCounter site (siteAttempts P site u) u)
  refine ⟨more, fun trace => (congrArg (nextAttempt site) ?_).trans (h trace)⟩
  cases site <;> rfl

theorem appends_takeAvailable (inn : List Byte) : Appends (takeAvailable inn) := by
  intro u
  unfold takeAvailable
  split
  · exact ⟨[.response .ok [] .noData], fun _ => rfl⟩
  · exact ⟨[], fun _ => by simp⟩

theorem appends_takeFreeSpace (inn : List Byte) : Appends (takeFreeSpace inn) := by
  intro u
  unfold takeFreeSpace
  split
  · exact ⟨[.response .insufficientSpace [] .none], fun _ => rfl⟩
  · exact ⟨[], fun _ => by simp⟩

/-! #### What a frame does with its answer -/

/-- Two responses that agree where `i` reads them (R89). -/
def AgreeWhereRead (i : Instr) (a b : List Byte) : Prop := ∀ k, readsPosition i k → a[k]? = b[k]?

theorem byteAt_congr {a b : List Byte} {k : Nat} (h : a[k]? = b[k]?) : byteAt a k = byteAt b k := by
  simp only [byteAt, List.getD_eq_getElem?_getD, h]

theorem statusByte_congr {a b : List Byte} (h : AgreeWhereRead .statusRead a b) : statusByte a = statusByte b :=
  byteAt_congr (h 1 rfl)

theorem lengthField_congr {a b : List Byte} (h : AgreeWhereRead (.dataRead 4#32) a b) :
    lengthField a = lengthField b := by
  have hbyte : ∀ k, 1 ≤ k → k ≤ 4 → byteAt a k = byteAt b k := fun k h1 h4 => byteAt_congr (h k ⟨h1, h4⟩)
  simp only [lengthField, hbyte 1, hbyte 2, hbyte 3, hbyte 4, Nat.reduceLeDiff, le_refl]

/-- Data byte `k` is response byte `k + 1` (R83). -/
theorem dataField_congr {n : U32} {a b : List Byte} (h : AgreeWhereRead (.dataRead n) a b) :
    dataField n a = dataField n b := by
  apply List.ext_getElem?
  intro k
  simp only [dataField, List.getElem?_take, List.getElem?_drop]
  split
  · exact h (1 + k) ⟨by omega, by omega⟩
  · rfl

/-- `s` with what the transport answers next. -/
def withAnswers (answers : List Answer) (s : State) : State := { s with answers := answers }

/-- In `s` the instruction `i` is the exchange of `out`, whatever the transport answers, with `f` on failure: `g` takes a
response up, reads it only where R89 says, and looks at nothing of the record. -/
structure Reads (i : Instr) (out : List Byte) (s : State) (f : State → State)
    (g : List Byte → State → State) : Prop where
  exec_eq : ∀ answers, exec i (withAnswers answers s) = .next (exchange out f g (withAnswers answers s))
  appends : ∀ inn, Appends (g inn)
  congr : ∀ a b, AgreeWhereRead i a b → g a = g b

/-- An exchange after an attempt's decrement is the exchange with the decrement after it: the bus sees no counter. -/
theorem exchange_spendAttempt (out : List Byte) (f : State → State) (g : List Byte → State → State)
    (site : PollSite) (s : State) :
    exchange out f g (spendAttempt site s) =
      exchange out (f ∘ spendAttempt site) (fun inn => g inn ∘ spendAttempt site) s := by
  have hafter : afterExchange out (spendAttempt site s) = spendAttempt site (afterExchange out s) := by
    rw [afterExchange, answerFor_spendAttempt]
    cases site <;> rfl
  simp only [exchange, answerFor_spendAttempt, hafter, Function.comp_apply]

/-- A frame whose response is ignored (R89). -/
theorem reads_of_ignored {i : Instr} {out : List Byte} {s : State} {f g : State → State} (hg : Appends g)
    (hexec : ∀ answers, exec i (withAnswers answers s) =
      .next (exchange out f (fun _ => g) (withAnswers answers s))) :
    Reads i out s f fun _ => g :=
  ⟨hexec, fun _ => hg, fun _ _ _ => rfl⟩

/-- A status read is tested by its status byte alone (R131). -/
theorem reads_statusRead {s : State} {site : PollSite} (hs : s.seq = siteStat site) :
    Reads .statusRead (encStatusRead Config.params) s (busFail ∘ spendAttempt site) fun inn =>
      (fun t => if hit (statusByte inn) (siteFlag Config.params site) then onSuccess site t else nextAttempt site t) ∘
        spendAttempt site where
  exec_eq answers := by
    rw [exec_statusRead_of_site (s := withAnswers answers s) hs, statusAttempt, exchange_spendAttempt]
  appends inn := by
    refine Appends.comp ?_ (appends_spendAttempt site)
    by_cases hhit : hit (statusByte inn) (siteFlag Config.params site) = true
    · simpa only [hhit, if_true] using appends_onSuccess site
    · simpa only [hhit, if_false, Bool.false_eq_true] using appends_nextAttempt site
  congr a b h := by simp only [statusByte_congr h]

/-- The frame of a phase, when it can be built, is one exchange that reads what R89 says. -/
theorem reads_of_phaseFrame {s : State} {i : Instr} {out : List Byte} (hi : phaseFrame Config.params s = some i)
    (henc : encode Config.params i = some (.frame out)) : ∃ f g, Reads i out s f g := by
  obtain ⟨t, ht⟩ := exec_of_enabled (enabled_of_phaseFrame hi)
  rcases exec_phaseFrame_cases hi ht with ⟨site, hs, rfl, -⟩ | ⟨hs, rfl, -⟩ | ⟨site, reg, l, hreg, rfl, -⟩ |
    ⟨hs, rfl, -⟩ | ⟨hs, rfl, -⟩ | ⟨hs, rfl, -⟩ | ⟨hs, rfl, -⟩ | ⟨hs, rfl, -⟩ | ⟨hs, rfl, -⟩
  · cases henc
    exact ⟨_, _, reads_statusRead hs⟩
  · cases henc
    exact ⟨_, _, reads_of_ignored (appends_beginPoll _ .init) fun answers =>
      exec_powerOn_of_pOn (s := withAnswers answers s) hs⟩
  · have hout : encConfigRead Config.params (Config.params.address reg) l = .ok out :=
      toOption_map_frame_eq_some.mp henc
    have hsite : siteAfterConfigRead s.seq = some site := by
      rcases hreg with ⟨hs, rfl, -⟩ | ⟨hs, rfl, -⟩ | ⟨hs, rfl, -⟩ <;> rw [hs] <;> rfl
    exact ⟨_, _, reads_of_ignored (appends_beginPoll Config.params site) fun answers => by
      rw [exec_configRead_of_site (s := withAnswers answers s) hsite, hout, configPhase]⟩
  · have hout : encConfigWrite Config.params (Config.params.address .rxBuf) (bufLength s) = .ok out :=
      toOption_map_frame_eq_some.mp henc
    have hsite : siteAfterConfigWrite s.seq = some .write5 := by rw [hs]; rfl
    exact ⟨_, _, reads_of_ignored (appends_beginPoll Config.params .write5) fun answers => by
      rw [exec_configWrite_of_site (s := withAnswers answers s) hsite, hout, configPhase]⟩
  · cases henc
    exact ⟨_, _, fun answers => exec_dataRead_of_rDatL (s := withAnswers answers s) hs 4#32, appends_takeAvailable,
      fun a b h => by unfold takeAvailable; rw [lengthField_congr h]⟩
  · cases henc
    exact ⟨_, _, fun answers => exec_dataRead_of_wDatL (s := withAnswers answers s) hs 4#32, appends_takeFreeSpace,
      fun a b h => by unfold takeFreeSpace; rw [lengthField_congr h]⟩
  · cases henc
    exact ⟨_, _, fun answers => exec_dataRead_of_rDatB (s := withAnswers answers s) hs s.len,
      fun inn => appends_respond _ _ _, fun a b h => by rw [dataField_congr h]⟩
  · cases henc
    exact ⟨_, _, reads_of_ignored (appends_beginPoll _ .write7) fun answers =>
      exec_dataWrite_of_wData (s := withAnswers answers s) hs s.buf⟩
  · cases henc
    exact ⟨_, _, reads_of_ignored (appends_endSession _ _) fun answers =>
      exec_powerOff_of_xOff (s := withAnswers answers s) hs⟩

/-- With a scripted response of the frame's length the frame goes on with that response. -/
theorem Reads.exec_of_answer {i : Instr} {out inn : List Byte} {s : State} {f : State → State}
    {g : List Byte → State → State} (h : Reads i out s f g) (hlen : inn.length = out.length) (rest : List Answer) :
    exec i (withAnswers (.ok inn :: rest) s) =
      .next (g inn { s with answers := rest, trace := s.trace ++ [.exchange out (some inn)] }) := by
  have hans : answerFor out (withAnswers (.ok inn :: rest) s) = some inn := answerFor_of_cons rfl hlen
  rw [h.exec_eq, exchange_of_some hans, afterExchange_of_some hans]
  rfl

/-- Settles O50: both responses are taken up by one operation, which only adds to the record. -/
theorem unreadBytesChangeNothing : Obligations.UnreadBytesChangeNothing := by
  intro s i out a b rest hr hi henc ha hb hagree
  obtain ⟨f, g, h⟩ := reads_of_phaseFrame (s := tick s) hi henc
  obtain ⟨more, hmore⟩ := h.appends a { tick s with answers := rest }
  have hstep : ∀ inn, inn.length = out.length → g inn = g a →
      step { s with answers := .ok inn :: rest } =
        .next { g a { tick s with answers := rest } with
          trace := s.trace ++ .exchange out (some inn) :: more } := by
    intro inn hlen hg
    calc step { s with answers := .ok inn :: rest }
        = exec i (withAnswers (.ok inn :: rest) (tick s)) := step_of_phaseFrame hr hi
      _ = .next (g a { tick s with answers := rest, trace := s.trace ++ [.exchange out (some inn)] }) := by
          rw [h.exec_of_answer hlen, hg, tick_trace]
      _ = _ := by rw [hmore, List.append_assoc, List.singleton_append]
  exact ⟨_, _, more, hstep a ha rfl, hstep b hb (h.congr a b hagree).symm, rfl, rfl, rfl⟩

/-! ### The command port (R91) -/

/-- A command presented while the block is busy is left at the port. -/
theorem acceptAtIdle_of_busy {s : State} (h : s.seq ≠ .idle) (word : PortWord) (accept : State → State) :
    acceptAtIdle word accept s = { s with port := word :: s.port } := if_neg h

/-- Settles O16: none of the four commands is accepted. -/
theorem busyPortHoldsTheCommand : Obligations.BusyPortHoldsTheCommand := by
  intro s p h
  simp only [exec, execInit, execRead, execWrite, execRelease, releaseWith, acceptAtIdle_of_busy h, and_self]

/-- Settles O36: what is fetched at `IDLE` is the command at the head of the port. -/
theorem stepRunsTheCommand : Obligations.StepRunsTheCommand := by
  intro s w rest i hs hr hp hi
  have hfetch : fetch Config.params s = .command i := by
    simp [fetch, hr, hs, siteOfWait, phaseFrame, fetchCommand, hp, hi]
  rw [step_of_fetch_command hfetch, takeCommand, tick, hp, List.tail_cons]

/-- A word without a payload is one of the four commands, and placing that command presents the word. -/
theorem place_of_decodeCommand (P : Params) (code : BitVec 2) :
    ∃ i, decodeCommand ⟨code, []⟩ = .ok i ∧ i ∈ [Instr.init, .read, .write [], .release] ∧
      ∀ s, place P i s = placeCommand ⟨code, []⟩ s := by
  have hcodes : ∀ c : BitVec 2, c = 0#2 ∨ c = 1#2 ∨ c = 2#2 ∨ c = 3#2 := by decide
  rcases hcodes code with rfl | rfl | rfl | rfl
  · exact ⟨.init, rfl, by simp, fun _ => rfl⟩
  · exact ⟨.read, rfl, by simp, fun _ => rfl⟩
  · exact ⟨.write [], rfl, by simp, fun _ => rfl⟩
  · exact ⟨.release, rfl, by simp, fun _ => rfl⟩

/-- A number of up to 8 bits decodes as the command word that its lowest two bits name. -/
theorem decodeTableWord_of_le {nbits : Nat} (h : nbits ≤ 8) (w : Nat) :
    decodeTableWord nbits w = (decodeCommand ⟨BitVec.ofNat 2 w, []⟩).toOption := by
  rw [decodeTableWord, tableWord, if_pos h, decode]

/-- Settles O41: the command stands at the port of an idle block. -/
theorem placedCommandRunsNext : Obligations.PlacedCommandRunsNext := by
  intro s nbits w hbits
  obtain ⟨i, hi, hmem, hplace⟩ := place_of_decodeCommand Config.params (BitVec.ofNat 2 w)
  have hword : decodeTableWord nbits w = some i := by rw [decodeTableWord_of_le hbits, hi]; rfl
  refine ⟨i, hword, hmem, ?_⟩
  simp only [State.withFetchWord, hword, hplace]
  exact stepRunsTheCommand _ _ s.port i rfl nofun rfl hi

end Sys2Proof.Machine
end

section
/-! Proofs of the statements about the frame encoder (40_frame_encoder.md): the constructors as their rules write them, and
which frames have an instruction, with its operands in their domains. -/

namespace Sys2Proof

/-! ### The frame constructors (R111 to R117) -/

/-- A config frame is its rule's `if`, whatever its opcode byte (R112, R113). -/
theorem encConfig_eq_if (op : Byte) (a l : U32) :
    encConfig op a l = if l = 0#32 then .error .invalidArgument else .ok ([op] ++ le32 a ++ le32 (l - 1#32)) := by
  by_cases hl : l = 0#32
  · rw [if_pos hl, encConfig_error_iff.mpr hl]
  · rw [if_neg hl, encConfig_of_ne hl, List.append_assoc, List.singleton_append]

/-- Settles O2: the two config frames are format C behind their opcode byte, the other five their rules' bytes. -/
theorem frameConstructors : Obligations.FrameConstructors := fun P =>
  ⟨rfl, encConfig_eq_if P.opcConfigRead, encConfig_eq_if P.opcConfigWrite, fun _ => rfl, fun _ => rfl, rfl, rfl⟩

/-! ### The instruction of a frame (R112 to R115) -/

/-- A checked operand is given exactly when its check holds. -/
theorem ite_ok_else_error_eq_ok {c : Prop} [Decidable c] {i j : Instr} {e : DecodeError} :
    (if c then Except.ok i else .error e) = .ok j ↔ c ∧ i = j := by
  by_cases hc : c
  · rw [if_pos hc, Except.ok.injEq, and_iff_right hc]
  · rw [if_neg hc]; exact iff_of_false nofun fun h => hc h.1

/-- A length is an operand exactly when it is a u32. -/
theorem operandU32_eq_ok {mk : U32 → Instr} {n : Nat} {i : Instr} :
    operandU32 mk n = .ok i ↔ n < 2 ^ 32 ∧ mk (BitVec.ofNat 32 n) = i := ite_ok_else_error_eq_ok

theorem exists_operandU32_eq_ok {mk : U32 → Instr} {n : Nat} : (∃ i, operandU32 mk n = .ok i) ↔ n < 2 ^ 32 := by
  simp only [operandU32_eq_ok, exists_and_left, exists_eq', and_true]

/-- A payload is DATA_WRITE's operand exactly when its length is a u32 (R115; 92_eei_decisions.md D27). -/
theorem instrOfFrame_dataWrite_eq_ok {p : List Byte} {i : Instr} :
    instrOfFrame (.dataWrite p) = .ok i ↔ p.length < 2 ^ 32 ∧ .dataWrite p = i :=
  ite_ok_else_error_eq_ok.trans (and_congr_left' decide_eq_true_iff)

/-- What the bytes of a frame decode to is the frame's instruction. -/
theorem decode_frame_of_decodeFrame {P : Params} {f : List Byte} {b : BusFrame} (h : decodeFrame P f = .ok b) :
    decode P (.frame f) = instrOfFrame b := by
  simp only [decode, h]

/-- Only the bytes of a frame decode to an instruction. -/
theorem decode_frame_eq_ok {P : Params} {f : List Byte} {i : Instr} :
    decode P (.frame f) = .ok i ↔ ∃ b, decodeFrame P f = .ok b ∧ instrOfFrame b = .ok i := by
  cases h : decodeFrame P f <;> simp [decode, h]

/-! ### The operands are in their domains (R112, R113, R91) -/

/-- A length that fits a u32 and is not 0 stays other than 0 as an operand. -/
theorem ofNat_ne_zero_of_pos {n : Nat} (hpos : 0 < n) (hlt : n < 2 ^ 32) : BitVec.ofNat 32 n ≠ 0#32 := by
  intro h
  have hn := congrArg BitVec.toNat h
  rw [BitVec.toNat_ofNat, Nat.mod_eq_of_lt hlt] at hn
  exact hpos.ne' hn

/-- The length of a config frame is its field plus one, so it is not 0 (R86, R95). -/
theorem length_pos_of_decodeFrame_config {P : Params} {f : List Byte} {a : U32} {l : Nat}
    (h : decodeFrame P f = .ok (.configRead a l) ∨ decodeFrame P f = .ok (.configWrite a l)) : 0 < l := by
  obtain ⟨-, hread, hwrite, -⟩ := frameDecoding P f
  rw [hread, hwrite] at h
  obtain ⟨_, _, _, _, _, _, _, _, -, -, rfl⟩ | ⟨_, _, _, _, _, _, _, _, -, -, rfl⟩ := h <;> exact Nat.succ_pos _

/-- The instruction of a frame has its operands in their domains (R112 to R115). -/
theorem wf_of_instrOfFrame {P : Params} {f : List Byte} {b : BusFrame} {i : Instr} (hf : decodeFrame P f = .ok b)
    (hi : instrOfFrame b = .ok i) : i.wf = true := by
  cases b with
  | statusRead | powerOn | powerOff => cases hi; rfl
  | dataRead n => obtain ⟨-, rfl⟩ := operandU32_eq_ok.mp hi; rfl
  | dataWrite p =>
    obtain ⟨hp, rfl⟩ := instrOfFrame_dataWrite_eq_ok.mp hi
    exact decide_eq_true hp
  | configRead a l =>
    obtain ⟨hl, rfl⟩ := operandU32_eq_ok.mp hi
    exact bne_iff_ne.mpr (ofNat_ne_zero_of_pos (length_pos_of_decodeFrame_config (.inl hf)) hl)
  | configWrite a l =>
    obtain ⟨hl, rfl⟩ := operandU32_eq_ok.mp hi
    exact bne_iff_ne.mpr (ofNat_ne_zero_of_pos (length_pos_of_decodeFrame_config (.inr hf)) hl)

/-- A command of the port has its payload in its domain (R91). -/
theorem wf_of_decodeCommand {w : PortWord} {i : Instr} (h : decodeCommand w = .ok i) : i.wf = true := by
  obtain rfl | rfl | ⟨rfl, hp⟩ | rfl := Machine.decodeCommand_cases h
  · rfl
  · rfl
  · exact decide_eq_true hp
  · rfl

/-- Whatever decodes to an instruction, a frame or a port word, is well-formed. -/
theorem wf_of_decode {P : Params} {w : Encoded} {i : Instr} (h : decode P w = .ok i) : i.wf = true := by
  cases w with
  | frame f =>
    obtain ⟨b, hf, hi⟩ := decode_frame_eq_ok.mp h
    exact wf_of_instrOfFrame hf hi
  | command w => exact wf_of_decodeCommand h

/-- Settles O5: each length, count or payload of a frame is an operand exactly when it fits a u32. -/
theorem decodedIsWellFormed : Obligations.DecodedIsWellFormed := by
  refine ⟨fun _ _ _ => wf_of_decode, fun P f b hf => ?_⟩
  rw [decode_frame_of_decodeFrame hf]
  cases b with
  | statusRead | powerOn | powerOff => exact iff_of_true ⟨_, rfl⟩ trivial
  | configRead _ _ | configWrite _ _ | dataRead _ => exact exists_operandU32_eq_ok
  | dataWrite p => simp only [instrOfFrame_dataWrite_eq_ok, exists_and_left, exists_eq', and_true]

end Sys2Proof
end

section
/-! Proofs of the statements about the status poller (41_status_poller.md): the sentinel's miss, POLL's value at its site, and
the loop on a script of statuses, which runs through the misses and ends at the first hit or with its attempts. -/

namespace Sys2Proof.Machine

/-! ### The sentinel (R132) -/

@[simp] theorem hit_sentinel (mask : Byte) : hit 0xFF#8 mask = false := rfl

@[simp] theorem statusByte_pair (x status : Byte) : statusByte [x, status] = status := rfl

/-- Settles O9: the attempt tests the sentinel, which no mask hits. -/
theorem sentinelIsAMiss : Obligations.SentinelIsAMiss := by
  refine ⟨hit_sentinel, fun s site x hs h => ?_⟩
  rw [exec_statusRead_of_answer hs h, afterExchange_spendAttempt site h]
  simp only [statusByte_pair, hit_sentinel, Bool.false_eq_true, if_false]

/-! ### The value of a poll at its site (R138) -/

/-- POLL executed at a delay phase hands its value to the site of that phase, for any mask and any n. -/
theorem exec_poll_eq_concludePoll {s : State} {site : PollSite} (hs : s.seq = siteWait site) (flag : Byte) (n : Nat) :
    exec (.poll flag n) s = .next (concludePoll site (poll Config.params site flag n s)) := by
  simp only [exec, execPoll, pollWith, siteOfWait_eq_some.mpr hs]

/-- Settles O32: each of the three values, concluded at each of the six sites. -/
theorem pollHandsItsValueToItsSite : Obligations.PollHandsItsValueToItsSite := by
  intro s t site flag n hs
  have hconclude : ∀ {v}, poll Config.params site flag n s = (v, t) →
      exec (.poll flag n) s = .next (concludePoll site (v, t)) := fun h => by
    rw [exec_poll_eq_concludePoll hs, h]
  refine ⟨fun k h => (hconclude h).trans ?success, fun h => (hconclude h).trans ?timeout, fun h => hconclude h⟩
  case success => cases site <;> rfl
  case timeout => cases site <;> rfl

/-! ### The loop on a script of statuses (R130, R134) -/

theorem statusAnswers_append (a b : List (Byte × Byte)) :
    statusAnswers (a ++ b) = statusAnswers a ++ statusAnswers b := List.map_append

section Script

variable (P : Params) (site : PollSite) (flag : Byte)

/-- The state after an attempt of the loop, from its delay to its exchange. -/
def afterAttempt (s : State) : State := afterExchange (encStatusRead P) (spendAttempt site (delay P s))

@[simp] theorem afterAttempt_answers (s : State) : (afterAttempt P site s).answers = s.answers.tail := by
  simp [afterAttempt]

@[simp] theorem remaining_afterAttempt (s : State) : remaining site (afterAttempt P site s) = remaining site s - 1 := by
  simp [afterAttempt]

@[simp] theorem exchangeCount_afterAttempt (s : State) :
    exchangeCount (afterAttempt P site s).trace = exchangeCount s.trace + 1 := by simp [afterAttempt]

@[simp] theorem delayCount_afterAttempt (s : State) :
    delayCount (afterAttempt P site s).trace = delayCount s.trace + 1 := by simp [afterAttempt]

/-- One turn of the loop with its status scripted. -/
theorem pollLoop_succ_of_answers {s : State} {r : Byte × Byte} {rest : List Answer}
    (h : s.answers = .ok [r.1, r.2] :: rest) (done n : Nat) :
    pollLoop P site flag done (n + 1) s =
      if hit r.2 flag then (.success (done + 1), afterAttempt P site s)
      else pollLoop P site flag (done + 1) n (afterAttempt P site s) := by
  have hanswer : answerFor (encStatusRead P) (delay P s) = some [r.1, r.2] := answerFor_of_cons h rfl
  rw [pollLoop_succ, hanswer]
  rfl

/-- The loop runs through scripted misses, one attempt each. -/
theorem exists_pollLoop_eq_of_misses {misses : List (Byte × Byte)} (hmiss : ∀ r ∈ misses, hit r.2 flag = false)
    {rest : List Answer} {s : State} (h : s.answers = statusAnswers misses ++ rest) (done n : Nat) :
    ∃ u, pollLoop P site flag done (misses.length + n) s = pollLoop P site flag (done + misses.length) n u ∧
      u.answers = rest ∧ remaining site u = remaining site s - misses.length ∧
      exchangeCount u.trace = exchangeCount s.trace + misses.length ∧
      delayCount u.trace = delayCount s.trace + misses.length := by
  induction misses generalizing s done with
  | nil => exact ⟨s, by simp, by simpa using h, rfl, rfl, rfl⟩
  | cons r misses ih =>
    obtain ⟨hr, hmisses⟩ := List.forall_mem_cons.mp hmiss
    obtain ⟨u, hloop, hans, hrem, hex, hdel⟩ := ih hmisses (s := afterAttempt P site s) (by simp [h]) (done + 1)
    refine ⟨u, ?_, hans, ?_, ?_, ?_⟩
    · rw [List.length_cons, Nat.add_right_comm, pollLoop_succ_of_answers P site flag (by simpa using h), hr,
        if_neg Bool.false_ne_true, hloop, Nat.add_right_comm, Nat.add_assoc]
    · rw [hrem, remaining_afterAttempt, List.length_cons, Nat.sub_sub, Nat.add_comm]
    · rw [hex, exchangeCount_afterAttempt, List.length_cons, Nat.add_right_comm, Nat.add_assoc]
    · rw [hdel, delayCount_afterAttempt, List.length_cons, Nat.add_right_comm, Nat.add_assoc]

end Script

/-! ### Success and timeout by the statuses (R134) -/

/-- None of the first `m` statuses hits. -/
def NoHit (flag : Byte) (replies : List (Byte × Byte)) (m : Nat) : Prop :=
  ∀ j r, j < m → replies[j]? = some r → hit r.2 flag = false

/-- The k-th status hits, as one of the first `n`, and none before it. -/
def FirstHit (flag : Byte) (replies : List (Byte × Byte)) (n k : Nat) : Prop :=
  1 ≤ k ∧ k ≤ n ∧ (∃ r, replies[k - 1]? = some r ∧ hit r.2 flag = true) ∧ NoHit flag replies (k - 1)

/-- The poll's value and the attempts it made, in exchanges and in delays. -/
def PollEnds (P : Params) (site : PollSite) (flag : Byte) (n : Nat) (s : State) (v : PollValue) (attempts : Nat) : Prop :=
  (poll P site flag n s).1 = v ∧
    exchangeCount (poll P site flag n s).2.trace = exchangeCount s.trace + attempts ∧
    delayCount (poll P site flag n s).2.trace = delayCount s.trace + attempts

section Statuses

variable {P : Params} {site : PollSite} {flag : Byte} {n k : Nat} {s : State} {replies : List (Byte × Byte)}
  {rest : List Answer}

theorem NoHit.forall_mem_take {m : Nat} (h : NoHit flag replies m) : ∀ r ∈ replies.take m, hit r.2 flag = false := by
  intro r hr
  obtain ⟨j, hj, rfl⟩ := List.mem_take_iff_getElem.mp hr
  obtain ⟨hlt, hlen⟩ := lt_min_iff.mp hj
  exact h j _ hlt (List.getElem?_eq_getElem hlen)

/-- Among any statuses none hits, or one of them is the first that does. -/
theorem noHit_or_exists_firstHit (flag : Byte) (replies : List (Byte × Byte)) (n : Nat) :
    NoHit flag replies n ∨ ∃ k, FirstHit flag replies n k := by
  induction n with
  | zero => exact .inl nofun
  | succ n ih =>
    obtain hno | ⟨k, hpos, hle, hhit, hbefore⟩ := ih
    · by_cases hlast : ∃ r, replies[n]? = some r ∧ hit r.2 flag = true
      · exact .inr ⟨n + 1, Nat.le_add_left 1 n, le_rfl, hlast, hno⟩
      · refine .inl fun j r hj hget => ?_
        obtain hlt | rfl := Nat.lt_succ_iff_lt_or_eq.mp hj
        · exact hno j r hlt hget
        · exact Bool.eq_false_iff.mpr fun hr => hlast ⟨r, hget, hr⟩
    · exact .inr ⟨k, hpos, Nat.le_succ_of_le hle, hhit, hbefore⟩

/-- Before the first hit the poll runs through the statuses, one attempt each, `d` of its attempts then left. -/
theorem exists_poll_eq_of_noHit (h : s.answers = statusAnswers replies ++ rest) {m : Nat} (hm : m ≤ replies.length)
    (hno : NoHit flag replies m) (d : Nat) :
    ∃ u, poll P site flag (m + d) s = pollLoop P site flag m d u ∧
      u.answers = statusAnswers (replies.drop m) ++ rest ∧ exchangeCount u.trace = exchangeCount s.trace + m ∧
      delayCount u.trace = delayCount s.trace + m := by
  have hscript : (loadCounter site (m + d) s).answers =
      statusAnswers (replies.take m) ++ (statusAnswers (replies.drop m) ++ rest) := by
    rw [loadCounter_answers, h, ← List.append_assoc, ← statusAnswers_append, List.take_append_drop]
  obtain ⟨u, hloop, hans, -, hex, hdel⟩ := exists_pollLoop_eq_of_misses P site flag hno.forall_mem_take hscript 0 d
  simp only [List.length_take_of_le hm, Nat.zero_add, loadCounter_trace] at hloop hex hdel
  exact ⟨u, hloop, hans, hex, hdel⟩

/-- With no hit among its n statuses the poll times out after n attempts. -/
theorem pollEnds_timeout (h : s.answers = statusAnswers replies ++ rest) (hn : n ≤ replies.length)
    (hno : NoHit flag replies n) : PollEnds P site flag n s .timeout n := by
  obtain ⟨u, hpoll, -, hex, hdel⟩ := exists_poll_eq_of_noHit (P := P) (site := site) h hn hno 0
  rw [Nat.add_zero, pollLoop] at hpoll
  rw [PollEnds, hpoll]
  exact ⟨rfl, hex, hdel⟩

/-- With its first hit on the k-th status the poll succeeds on attempt k. -/
theorem pollEnds_success (h : s.answers = statusAnswers replies ++ rest) (hk : FirstHit flag replies n k) :
    PollEnds P site flag n s (.success k) k := by
  obtain ⟨hpos, hle, ⟨r, hget, hr⟩, hbefore⟩ := hk
  obtain ⟨i, rfl⟩ := Nat.exists_eq_add_of_le' hpos
  obtain ⟨d, rfl⟩ := Nat.exists_eq_add_of_le hle
  rw [Nat.add_sub_cancel] at hget hbefore
  obtain ⟨hi, rfl⟩ := List.getElem?_eq_some_iff.mp hget
  obtain ⟨u, hpoll, hans, hex, hdel⟩ := exists_poll_eq_of_noHit (P := P) (site := site) h hi.le hbefore (d + 1)
  rw [List.drop_eq_getElem_cons hi] at hans
  rw [pollLoop_succ_of_answers P site flag hans, hr, if_pos rfl] at hpoll
  rw [PollEnds, Nat.add_right_comm i 1 d, Nat.add_assoc i d 1, hpoll]
  exact ⟨rfl, by simp [hex, Nat.add_assoc], by simp [hdel, Nat.add_assoc]⟩

end Statuses

/-- Settles O33: the statuses have no hit or a first one, and either decides the poll's value and its attempts. -/
theorem pollCountsAttempts : Obligations.PollCountsAttempts := by
  intro P site flag n s replies rest hans hn
  have hsuccess : ∀ k, FirstHit flag replies n k → PollEnds P site flag n s (.success k) k :=
    fun _ => pollEnds_success hans
  have htimeout : NoHit flag replies n → PollEnds P site flag n s .timeout n := pollEnds_timeout hans hn
  rcases noHit_or_exists_firstHit flag replies n with hno | ⟨k, hk⟩
  · obtain ⟨hv, hcounts⟩ := htimeout hno
    have hne : ∀ k, (poll P site flag n s).1 ≠ .success k := by simp [hv]
    exact ⟨fun k => ⟨fun h => absurd h (hne k), fun h => (hsuccess k h).1⟩, ⟨fun _ => hno, fun _ => hv⟩,
      fun k h => absurd h (hne k), fun _ => hcounts⟩
  · obtain ⟨hv, hcounts⟩ := hsuccess k hk
    have heq : ∀ k', (poll P site flag n s).1 = .success k' → k = k' := fun k' h =>
      PollValue.success.inj (hv.symm.trans h)
    have hne : (poll P site flag n s).1 ≠ .timeout := by simp [hv]
    exact ⟨fun k' => ⟨fun h => heq k' h ▸ hk, fun h => (hsuccess k' h).1⟩,
      ⟨fun h => absurd h hne, fun h => (htimeout h).1⟩, fun k' h => heq k' h ▸ hcounts, fun h => absurd h hne⟩

end Sys2Proof.Machine
end

section
/-! Proofs of the statements about the transfer engine (42_transfer_engine.md): the machine's runs end where the commands'
pseudocode ends, how many exchanges and delays that takes, and a WRITE read back. -/

namespace Sys2Proof.Machine

/-! ### The machine's place in a command

The machine keeps its place in a command in `seq`, and the operands in `len` and `buf`, where the pseudocode has its own
position and local names (R141, R143). Nothing that a command does to the rest of the state looks at these three. -/

/-- The pseudocode's state `s` as the machine holds it in phase `q`, with the operands `l` and `b`. -/
def inPhase (q : Phase) (l : U32) (b : List Byte) (s : State) : State := { s with seq := q, len := l, buf := b }

section InPhase

variable (q : Phase) (l : U32) (b : List Byte) (s : State)

@[simp] theorem inPhase_resetIn : (inPhase q l b s).resetIn = s.resetIn := rfl

@[simp] theorem onTimeout_inPhase (site : PollSite) : onTimeout site (inPhase q l b s) = onTimeout site s := by
  cases site <;> rfl

/-- The loop's head sets the phase itself, or ends the command. -/
theorem nextAttempt_inPhase (site : PollSite) :
    nextAttempt site (inPhase q l b s) = nextAttempt site (inPhase (siteWait site) l b s) := by
  cases site <;> rfl

/-- A poll carries the place and the operands along. -/
theorem pollLoop_inPhase (P : Params) (site : PollSite) (flag : Byte) (done n : Nat) :
    pollLoop P site flag done n (inPhase q l b s) =
      ((pollLoop P site flag done n s).1, inPhase q l b (pollLoop P site flag done n s).2) := by
  induction n generalizing done s with
  | zero => rfl
  | succ n ih =>
    have hafter : afterAttempt P site (inPhase q l b s) = inPhase q l b (afterAttempt P site s) := by cases site <;> rfl
    have hans : answerFor (encStatusRead P) (delay P (inPhase q l b s)) = answerFor (encStatusRead P) (delay P s) := rfl
    rw [pollLoop_succ, pollLoop_succ, hans]
    cases answerFor (encStatusRead P) (delay P s) with
    | none => exact congrArg (Prod.mk _) hafter
    | some inn =>
      by_cases hhit : hit (statusByte inn) flag = true
      · simp only [hhit, if_true]
        exact congrArg (Prod.mk _) hafter
      · simp only [hhit, if_false, Bool.false_eq_true]
        exact (congrArg (pollLoop P site flag (done + 1) n) hafter).trans (ih (afterAttempt P site s) (done + 1))

end InPhase

/-! ### Runs that reach a state, and what they record -/

/-- The machine runs from `s` to `t`, in no more steps than there are exchanges and delays recorded on the way. -/
def Reaches (s t : State) : Prop :=
  ∃ k, run k s = .next t ∧
    exchangeCount s.trace + delayCount s.trace + k ≤ exchangeCount t.trace + delayCount t.trace

theorem Reaches.refl (s : State) : Reaches s s := ⟨0, rfl, le_rfl⟩

theorem core_run_add (M : Host.Core) {k : Nat} {s t : M.State} (h : M.run k s = .next t) (j : Nat) :
    M.run (k + j) s = M.run j t := by
  induction k generalizing s with
  | zero => cases h; rw [Nat.zero_add]
  | succ k ih =>
    cases hstep : M.step s with
    | next u =>
      rw [core_run_succ M hstep] at h
      rw [Nat.add_right_comm, core_run_succ M hstep, ih h]
    | fault r => simp [Host.Core.run, hstep] at h
    | refused r => simp [Host.Core.run, hstep] at h

theorem Reaches.trans {s t u : State} (hst : Reaches s t) (htu : Reaches t u) : Reaches s u := by
  obtain ⟨k, hk, hcount⟩ := hst
  obtain ⟨j, hj, hcount'⟩ := htu
  exact ⟨k + j, (core_run_add core hk j).trans hj, by omega⟩

/-- One exchange is recorded, and no delay is forgotten. -/
theorem Sends.count_le {out : List Byte} {s t : State} (h : Sends out s t) :
    exchangeCount s.trace + delayCount s.trace + 1 ≤ exchangeCount t.trace + delayCount t.trace := by
  obtain ⟨answer, more, ht, -⟩ := h.trace_eq
  simp only [ht, exchangeCount_append, delayCount_append, exchangeCount_exchange, delayCount_exchange]
  omega

theorem Quiet.count_le {s t : State} (h : Quiet s t) :
    exchangeCount s.trace + delayCount s.trace ≤ exchangeCount t.trace + delayCount t.trace := by
  obtain ⟨more, ht, -⟩ := h.trace_eq
  simp only [ht, exchangeCount_append, delayCount_append]
  omega

theorem Reaches.of_step {out : List Byte} {s t : State} (hstep : step s = .next t) (h : Sends out s t) : Reaches s t :=
  ⟨1, run_succ (k := 0) hstep, h.count_le⟩

/-! ### The parts of a command, run -/

section Parts

variable {q : Phase} {l : U32} {b : List Byte} {s : State} {i : Instr}

/-- With no reset in sight a phase runs its frame. -/
theorem step_inPhase (hr : s.resetIn = []) (hi : phaseFrame Config.params (inPhase q l b s) = some i) :
    step (inPhase q l b s) = exec i (inPhase q l b s) := by
  rw [step_of_phaseFrame (by simp [hr]) hi, tick_of_nil (by simpa using hr)]

/-- A step that is an exchange, and what the machine reaches from there. -/
theorem reaches_exchange {out : List Byte} {f : State → State} {g g' : List Byte → State → State} (hr : s.resetIn = [])
    (hi : phaseFrame Config.params (inPhase q l b s) = some i)
    (hexec : exec i (inPhase q l b s) = .next (exchange out f g (inPhase q l b s)))
    (hf : ∀ u, f (inPhase q l b u) = f u) (hqf : ∀ u, Quiet u (f u)) (hqg : ∀ inn u, Quiet u (g inn u))
    (h : ∀ inn u, u.resetIn = [] → Reaches (g inn (inPhase q l b u)) (g' inn u)) :
    Reaches (inPhase q l b s) (exchange out f g' s) := by
  have hfirst : Reaches (inPhase q l b s) (exchange out f g (inPhase q l b s)) :=
    .of_step ((step_inPhase hr hi).trans hexec) (sends_exchange hqf hqg)
  cases hans : answerFor out s with
  | none =>
    rw [exchange_of_none (s := inPhase q l b s) hans] at hfirst
    rw [exchange_of_none hans, ← hf]
    exact hfirst
  | some inn =>
    rw [exchange_of_some (s := inPhase q l b s) hans] at hfirst
    rw [exchange_of_some hans]
    exact hfirst.trans (h inn (afterExchange out s) hr)

theorem reaches_attempt {site : PollSite} (hs : s.seq = siteWait site) (hr : s.resetIn = []) :
    Reaches s (statusAttempt Config.params site (delay Config.params s)) := by
  refine ⟨2, run_attempt hs hr 0, ?_⟩
  have hcount := (sends_statusAttempt Config.params site (delay Config.params s)).count_le
  simp only [delay_trace, exchangeCount_append, delayCount_append, exchangeCount_delay, delayCount_delay,
    exchangeCount_nil, delayCount_nil] at hcount
  omega

/-- From the head of a poll's loop the machine reaches the loop's conclusion: `run_nextAttempt_eq_concludePoll` with the
steps bounded by what is recorded. -/
theorem reaches_concludePoll {site : PollSite} (n : Nat) {s : State} (hs : s.seq = siteWait site)
    (hr : s.resetIn = []) (hn : remaining site s = n) (done : Nat) :
    Reaches (nextAttempt site s)
      (concludePoll site (pollLoop Config.params site (siteFlag Config.params site) done n s)) := by
  induction n generalizing s done with
  | zero =>
    rw [nextAttempt, if_pos hn]
    exact .refl _
  | succ n ih =>
    rw [nextAttempt_of_siteWait hs (by simp [hn])]
    rcases statusAttempt_delay_cases Config.params site done n s with hend | ⟨hmiss, hloop⟩
    · exact hend ▸ reaches_attempt hs hr
    · rw [hloop]
      exact (hmiss ▸ reaches_attempt hs hr).trans
        (ih (by simpa using hs) (by simpa using hr) (by simp [hn]) (done + 1))

/-- A poll of a site, and what the machine reaches from its success. -/
theorem reaches_pollThen {site : PollSite} {next : State → State} (hr : s.resetIn = [])
    (h : ∀ u, u.resetIn = [] → Reaches (onSuccess site (inPhase (siteWait site) l b u)) (next u)) :
    Reaches (beginPoll Config.params site (inPhase q l b s)) (pollThen Config.params site (siteFlag Config.params site)
      (siteAttempts Config.params site s) (onTimeout site) next s) := by
  have hload : loadCounter site (siteAttempts Config.params site (inPhase q l b s)) (inPhase q l b s) =
      inPhase q l b (loadCounter site (siteAttempts Config.params site s) s) := by cases site <;> rfl
  have hremaining : remaining site
      (inPhase (siteWait site) l b (loadCounter site (siteAttempts Config.params site s) s)) =
      siteAttempts Config.params site s := by cases site <;> rfl
  have hrun := reaches_concludePoll _ rfl (by simpa using hr) hremaining 0
  obtain ⟨-, -, -, -, -, hreset⟩ := pollLoop_frame Config.params site (siteFlag Config.params site) 0
    (siteAttempts Config.params site s) (loadCounter site (siteAttempts Config.params site s) s)
  rw [beginPoll, hload, nextAttempt_inPhase, pollThen, poll]
  rw [pollLoop_inPhase] at hrun
  revert hrun hreset
  obtain ⟨v, t⟩ := pollLoop Config.params site _ 0 _ _
  intro hrun hreset
  cases v with
  | success k => exact hrun.trans (h t (by simpa [hr] using hreset))
  | timeout => simpa [concludePoll] using hrun
  | busFailed => exact hrun

/-- A config frame with its poll, and what the machine reaches from the poll's success. -/
theorem reaches_configThen {site : PollSite} (hsite : site ≠ .init) {op : Byte} {a len : U32} (hlen : len ≠ 0#32)
    {next : State → State} (hr : s.resetIn = []) (hi : phaseFrame Config.params (inPhase q l b s) = some i)
    (hexec : exec i (inPhase q l b s) = .next (configPhase Config.params site (encConfig op a len) (inPhase q l b s)))
    (h : ∀ u, u.resetIn = [] → Reaches (onSuccess site (inPhase (siteWait site) l b u)) (next u)) :
    Reaches (inPhase q l b s) (configThen (encConfig op a len) (pollThen Config.params site
      (siteFlag Config.params site) (siteAttempts Config.params site s) (onTimeout site) next) s) := by
  rw [encConfig_of_ne hlen] at hexec ⊢
  refine reaches_exchange hr hi hexec (fun _ => rfl) quiet_busFail (fun _ => quiet_beginPoll _ site) fun _ u hu => ?_
  have hattempts : siteAttempts Config.params site s = siteAttempts Config.params site u := by
    cases site with
    | init => exact absurd rfl hsite
    | read2 | read5 | write2 | write5 | write7 => rfl
  rw [hattempts]
  exact reaches_pollThen hu h

end Parts

/-! ### READ, run -/

section Run

variable {s : State} (hr : s.resetIn = [])
include hr

theorem reaches_readData (n : U32) (b : List Byte) :
    Reaches (inPhase .rDatB n b s)
      (exchange (encDataRead Config.params n) busFail (fun inn => respond .ok (dataField n inn) .none) s) :=
  reaches_exchange hr rfl (exec_dataRead_of_rDatB rfl n) (fun _ => rfl) quiet_busFail
    (fun _ _ => quiet_respond _ _ _ rfl rfl) fun _ _ _ => .refl _

theorem reaches_readBuffer {n : U32} (hn : n ≠ 0#32) (b : List Byte) :
    Reaches (inPhase .rCfgB n b s) (readBuffer Config.params n s) :=
  reaches_configThen (site := .read5) nofun hn hr rfl (exec_configRead_of_site rfl _ n)
    fun _ hu => reaches_readData hu n b

/-- `available` in `len` is what the pseudocode has in its local name (R141). -/
theorem reaches_takeAvailable (l : U32) (b inn : List Byte) :
    Reaches (takeAvailable inn (inPhase .rDatL l b s)) (if lengthField inn = 0#32 then respond .ok [] .noData s
      else readBuffer Config.params (lengthField inn) s) := by
  unfold takeAvailable
  split
  · exact .refl _
  · rename_i hn
    exact reaches_readBuffer hr hn b

theorem reaches_readLength (l : U32) (b : List Byte) :
    Reaches (inPhase .rDatL l b s) (exchange (encDataRead Config.params 4#32) busFail (fun inn t =>
      if lengthField inn = 0#32 then respond .ok [] .noData t else readBuffer Config.params (lengthField inn) t) s) :=
  reaches_exchange hr rfl (exec_dataRead_of_rDatL rfl 4#32) (fun _ => rfl) quiet_busFail
    quiet_takeAvailable fun inn _ hu => reaches_takeAvailable hu l b inn

/-- From the acceptance of READ the machine reaches the end of its pseudocode. -/
theorem reaches_acceptRead : Reaches (acceptRead s) (readSequence Config.params s) := by
  unfold acceptRead readSequence
  split
  · exact reaches_configThen (site := .read2) nofun (by decide) (q := .rCfgL) hr rfl
      (exec_configRead_of_site rfl _ 4#32) fun _ hu => reaches_readLength hu s.len s.buf
  · exact .refl _

/-! ### WRITE, run -/

theorem reaches_writeData (l : U32) (p : List Byte) :
    Reaches (inPhase .wData l p s) (exchange (encDataWrite Config.params p) busFail (fun _ =>
      pollThen Config.params .write7 Config.params.flagRdwrFinished Config.params.finAttempts
        (takeError .pollTimeout) (respond .ok [] .none)) s) :=
  reaches_exchange hr rfl (exec_dataWrite_of_wData rfl p) (fun _ => rfl) quiet_busFail
    (fun _ => quiet_beginPoll _ .write7) fun _ _ hu =>
      reaches_pollThen (site := .write7) hu fun _ _ => .refl _

theorem reaches_writeBuffer (l : U32) {p : List Byte} (hp : BitVec.ofNat 32 p.length ≠ 0#32) :
    Reaches (inPhase .wCfgB l p s) (writeBuffer Config.params p s) :=
  reaches_configThen (site := .write5) nofun hp hr rfl (exec_configWrite_of_site rfl _ _)
    fun _ hu => reaches_writeData hu l p

/-- The payload in `buf` is what the pseudocode was called with (R143). -/
theorem reaches_takeFreeSpace (l : U32) {p : List Byte} (hp : BitVec.ofNat 32 p.length ≠ 0#32) (inn : List Byte) :
    Reaches (takeFreeSpace inn (inPhase .wDatL l p s)) (if (lengthField inn).toNat < p.length then
      takeError .insufficientSpace s else writeBuffer Config.params p s) := by
  have hspace : takeFreeSpace inn (inPhase .wDatL l p s) = if (lengthField inn).toNat < p.length then
      takeError .insufficientSpace s else inPhase .wCfgB (lengthField inn) p s := rfl
  rw [hspace]
  split
  · exact .refl _
  · exact reaches_writeBuffer hr _ hp

theorem reaches_writeSpace (l : U32) {p : List Byte} (hp : BitVec.ofNat 32 p.length ≠ 0#32) :
    Reaches (inPhase .wDatL l p s) (exchange (encDataRead Config.params 4#32) busFail (fun inn t =>
      if (lengthField inn).toNat < p.length then takeError .insufficientSpace t
      else writeBuffer Config.params p t) s) :=
  reaches_exchange hr rfl (exec_dataRead_of_wDatL rfl 4#32) (fun _ => rfl) quiet_busFail
    quiet_takeFreeSpace fun inn _ hu => reaches_takeFreeSpace hu l hp inn

/-- From the acceptance of WRITE the machine reaches the end of its pseudocode. -/
theorem reaches_acceptWrite {p : List Byte} (hp : p.length < 2 ^ 32) :
    Reaches (acceptWrite p s) (writeSequence Config.params p s) := by
  unfold acceptWrite writeSequence
  split_ifs with hon hempty
  · exact .refl _
  · exact reaches_configThen (site := .write2) nofun (by decide) (q := .wCfgL) hr rfl
      (exec_configRead_of_site rfl _ 4#32) fun _ hu =>
        reaches_writeSpace hu s.len (ofNat_ne_zero_of_pos (Nat.pos_of_ne_zero hempty) hp)
  · exact .refl _

/-! ### INIT and RELEASE, run -/

/-- From the acceptance of INIT the machine reaches the end of its pseudocode. -/
theorem reaches_acceptInit : Reaches (acceptInit s) (initSequence Config.params s) := by
  unfold acceptInit initSequence
  split
  · exact reaches_exchange (q := .pOn) (l := s.len) (b := s.buf) (s := { s with pwr := .poweringOn }) hr rfl
      (exec_powerOn_of_pOn rfl) (fun _ => rfl) quiet_busFail (fun _ => quiet_beginPoll _ .init) fun _ _ hu =>
        reaches_pollThen (site := .init) hu fun _ _ => .refl _
  · exact .refl _

/-- From the acceptance of RELEASE the machine reaches the end of its pseudocode. -/
theorem reaches_acceptRelease : Reaches (acceptRelease Config.params s) (releaseSequence Config.params s) := by
  unfold acceptRelease releaseSequence
  split
  · exact reaches_exchange (q := .xOff) hr rfl (exec_powerOff_of_xOff rfl) (fun _ => rfl)
      (quiet_endSession _ _) (fun _ => quiet_endSession _ _) fun _ _ _ => .refl _
  · exact .refl _

end Run

/-! ### A command, run from the port -/

/-- The machine's step that accepts a command, when no reset is in sight. -/
theorem step_of_command {s : State} {w : PortWord} {rest : List PortWord} {i : Instr} (hs : s.seq = .idle)
    (hr : s.resetIn = []) (hp : s.port = w :: rest) (hi : decodeCommand w = .ok i) :
    step s = exec i { s with port := rest } := by
  have hnil : ({ s with port := rest, resetIn := s.resetIn.tail } : State) = { s with port := rest } := by rw [hr]; rfl
  rw [stepRunsTheCommand s w rest i hs (by simp [hr]) hp hi, hnil]

/-- A command accepted at `IDLE`, and its pseudocode's end reached from there. -/
theorem exec_command_reaches {s : State} {w : PortWord} {i : Instr} {f : State → State} (hs : s.seq = .idle)
    (hr : s.resetIn = []) (hi : decodeCommand w = .ok i) (hf : commandSequence Config.params i = some f) :
    ∃ t, exec i s = .next t ∧ Reaches t (f s) := by
  rcases decodeCommand_cases hi with rfl | rfl | ⟨rfl, hfits⟩ | rfl <;> cases hf
  · exact ⟨_, exec_init_of_idle hs, reaches_acceptInit hr⟩
  · exact ⟨_, exec_read_of_idle hs, reaches_acceptRead hr⟩
  · exact ⟨_, exec_write_of_idle hs _, reaches_acceptWrite hr hfits⟩
  · exact ⟨_, exec_release_of_idle hs, reaches_acceptRelease hr⟩

/-- A command at the port, run as its pseudocode: one step to accept it, and no more than one for each of its exchanges
and delays. -/
theorem run_of_command {s : State} {w : PortWord} {rest : List PortWord} {i : Instr} {f : State → State}
    (hs : s.seq = .idle) (hr : s.resetIn = []) (hp : s.port = w :: rest) (hi : decodeCommand w = .ok i)
    (hf : commandSequence Config.params i = some f) :
    ∃ k, run (k + 1) s = .next (f { s with port := rest }) ∧ exchangeCount s.trace + delayCount s.trace + k ≤
      exchangeCount (f { s with port := rest }).trace + delayCount (f { s with port := rest }).trace := by
  obtain ⟨t, hexec, k, hrun, hcount⟩ := exec_command_reaches (s := { s with port := rest }) hs hr hi hf
  have hquiet : Quiet { s with port := rest } t := quiet_command hs hi hexec
  exact ⟨k, (run_succ ((step_of_command hs hr hp hi).trans hexec)).trans hrun,
    (Nat.add_le_add_right hquiet.count_le k).trans hcount⟩

/-- Settles O52: READ's pseudocode is what a READ at the port runs as. -/
theorem readRunsItsSequence : Obligations.ReadRunsItsSequence := by
  intro s w rest hs hr hp hi
  obtain ⟨k, hrun, -⟩ := run_of_command hs hr hp hi rfl
  exact ⟨k + 1, hrun⟩

/-- Settles O53: WRITE's pseudocode is what a WRITE at the port runs as. -/
theorem writeRunsItsSequence : Obligations.WriteRunsItsSequence := by
  intro s w rest p hs hr hp hi
  obtain ⟨k, hrun, -⟩ := run_of_command hs hr hp hi rfl
  exact ⟨k + 1, hrun⟩

/-! ### The record of a poll (R130) -/

/-- The events of a poll whose attempts were answered so: a delay and a status read for each. -/
def attemptEvents (P : Params) (answers : List (Option (List Byte))) : List Event :=
  answers.flatMap fun answer => [.delay P.attemptInterval, .exchange (encStatusRead P) answer]

section AttemptEvents

variable (P : Params) (answers : List (Option (List Byte)))

theorem attemptEvents_cons (answer : Option (List Byte)) :
    attemptEvents P (answer :: answers) =
      .delay P.attemptInterval :: .exchange (encStatusRead P) answer :: attemptEvents P answers := rfl

@[simp] theorem exchangeCount_attemptEvents : exchangeCount (attemptEvents P answers) = answers.length := by
  induction answers with
  | nil => rfl
  | cons answer answers ih => simp [attemptEvents_cons, ih]

@[simp] theorem delayCount_attemptEvents : delayCount (attemptEvents P answers) = answers.length := by
  induction answers with
  | nil => rfl
  | cons answer answers ih => simp [attemptEvents_cons, ih]

@[simp] theorem responses_attemptEvents : responses (attemptEvents P answers) = [] := by
  induction answers with
  | nil => rfl
  | cons answer answers ih => simpa [attemptEvents_cons] using ih

@[simp] theorem dataWrites_attemptEvents : dataWrites P (attemptEvents P answers) = [] := by
  induction answers with
  | nil => rfl
  | cons answer answers ih =>
    rw [attemptEvents_cons, dataWrites_delay, dataWrites_exchange P (encStatusRead_head P), if_neg (by decide), ih]

end AttemptEvents

theorem afterAttempt_trace (P : Params) (site : PollSite) (s : State) :
    (afterAttempt P site s).trace = s.trace ++ attemptEvents P [answerFor (encStatusRead P) (delay P s)] := by
  simp [afterAttempt, attemptEvents]

/-- A poll records its attempts and nothing else: at most `n`, and one at least unless `n` is 0. -/
theorem pollLoop_trace (P : Params) (site : PollSite) (flag : Byte) (done n : Nat) (s : State) :
    ∃ answers, answers.length ≤ n ∧ (n ≠ 0 → 1 ≤ answers.length) ∧
      (pollLoop P site flag done n s).2.trace = s.trace ++ attemptEvents P answers := by
  induction n generalizing done s with
  | zero => exact ⟨[], le_rfl, nofun, by simp [pollLoop, attemptEvents]⟩
  | succ n ih =>
    have hfirst := afterAttempt_trace P site s
    rw [pollLoop_succ]
    cases hans : answerFor (encStatusRead P) (delay P s) with
    | none =>
      rw [hans] at hfirst
      exact ⟨[none], by simp, by simp, hfirst⟩
    | some inn =>
      rw [hans] at hfirst
      by_cases hhit : hit (statusByte inn) flag = true
      · simp only [hhit, if_true]
        exact ⟨[some inn], by simp, by simp, hfirst⟩
      · obtain ⟨answers, hle, -, htrace⟩ := ih (done + 1) (afterAttempt P site s)
        simp only [hhit, if_false, Bool.false_eq_true]
        exact ⟨some inn :: answers, by simpa using hle, by simp,
          htrace.trans (by rw [hfirst, List.append_assoc]; rfl)⟩

/-! ### Counting the exchanges and delays of a command -/

/-- From `s` to `t` a command in progress has made `e` exchanges and `d` delays. -/
structure Made (e d : Nat) (s t : State) : Prop where
  port_eq : t.port = s.port
  responses_eq : responses t.trace = responses s.trace
  exchanges_eq : exchangeCount t.trace = exchangeCount s.trace + e
  delays_eq : delayCount t.trace = delayCount s.trace + d

/-- From `s` to `t` a command has ended, with `e` exchanges and `d` delays made and this response. -/
structure EndsWith (e d : Nat) (c : RespCode) (data : List Byte) (x : Detail) (s t : State) : Prop where
  seq_eq : t.seq = .idle
  port_eq : t.port = s.port
  responses_eq : responses t.trace = responses s.trace ++ [(c, data, x)]
  last_eq : t.trace.getLast? = some (.response c data x)
  exchanges_eq : exchangeCount t.trace = exchangeCount s.trace + e
  delays_eq : delayCount t.trace = delayCount s.trace + d

/-- From `s` to `t` a command has ended, and what it made fits its response by the table `C`. -/
def EndsBy (C : Nat → Nat → RespCode → Detail → Prop) (s t : State) : Prop :=
  ∃ e d c data x, EndsWith e d c data x s t ∧ C e d c x

theorem Made.refl (s : State) : Made 0 0 s s := ⟨rfl, rfl, rfl, rfl⟩

section Counting

variable {e d : Nat} {s t : State}

theorem Made.afterExchange (h : Made e d s t) (out : List Byte) : Made (e + 1) d s (afterExchange out t) :=
  ⟨h.port_eq, by simp [h.responses_eq], by simp [h.exchanges_eq, Nat.add_assoc], by simp [h.delays_eq]⟩

theorem Made.respond (h : Made e d s t) (c : RespCode) (data : List Byte) (x : Detail) :
    EndsWith e d c data x s (respond c data x t) :=
  ⟨rfl, h.port_eq, by simp [h.responses_eq], by simp, by simp [h.exchanges_eq], by simp [h.delays_eq]⟩

/-- Neither the power state nor the budget is counted. -/
theorem Made.congr {u : State} (h : Made e d s t) (hp : t.port = u.port) (ht : t.trace = u.trace) : Made e d s u :=
  ⟨hp ▸ h.port_eq, ht ▸ h.responses_eq, ht ▸ h.exchanges_eq, ht ▸ h.delays_eq⟩

theorem Made.takeError (h : Made e d s t) (c : RespCode) : EndsWith e d c [] .none s (takeError c t) :=
  (h.congr (u := { t with pwr := if fatal c then .failed else t.pwr }) rfl rfl).respond c [] .none

theorem Made.endSession (h : Made e d s t) (P : Params) (c : RespCode) : EndsWith e d c [] .none s (endSession P c t) :=
  (h.congr (u := { t with pwr := .off, budget := P.pwrAttempts }) rfl rfl).respond c [] .none

/-! Rules for the parts of a sequence: what holds of both ends of an exchange, or of a poll, holds of the whole. -/

variable {Q : State → Prop}

theorem Made.exchange (h : Made e d s t) {out : List Byte} {f : State → State} {g : List Byte → State → State}
    (hf : ∀ u, Made (e + 1) d s u → Q (f u)) (hg : ∀ inn u, u.budget = t.budget → Made (e + 1) d s u → Q (g inn u)) :
    Q (exchange out f g t) := by
  rcases exchange_cases out f g t with ⟨-, heq⟩ | ⟨inn, -, -, heq⟩ <;> rw [heq]
  · exact hf _ (h.afterExchange out)
  · exact hg inn _ rfl (h.afterExchange out)

theorem Made.configThen (h : Made e d s t) {frame : Except FrameError (List Byte)} {next : State → State}
    (herror : ∀ u, Made e d s u → Q (Machine.takeError .invalidArgument u))
    (hf : ∀ u, Made (e + 1) d s u → Q (busFail u)) (hnext : ∀ u, Made (e + 1) d s u → Q (next u)) :
    Q (configThen frame next t) := by
  match frame with
  | .error .invalidArgument => exact herror t h
  | .ok out => exact h.exchange hf fun _ u _ hu => hnext u hu

theorem Made.pollThen (h : Made e d s t) {P : Params} {site : PollSite} {flag : Byte} {n : Nat}
    {timeout next : State → State}
    (hends : ∀ k u, (n ≠ 0 → 1 ≤ k) → k ≤ n → Made (e + k) (d + k) s u → Q (next u) ∧ Q (timeout u) ∧ Q (busFail u)) :
    Q (pollThen P site flag n timeout next t) := by
  obtain ⟨-, -, -, -, hport, -⟩ := pollLoop_frame P site flag 0 n (loadCounter site n t)
  obtain ⟨answers, hle, hpos, htrace⟩ := pollLoop_trace P site flag 0 n (loadCounter site n t)
  rw [Machine.pollThen, poll]
  revert hport htrace
  obtain ⟨v, u⟩ := pollLoop P site flag 0 n (loadCounter site n t)
  intro hport htrace
  have hmade : Made (e + answers.length) (d + answers.length) s u := by
    obtain ⟨hport', hresp, hex, hdel⟩ := h
    simp only [loadCounter_port, loadCounter_trace] at hport htrace
    exact ⟨hport.trans hport', by simp [htrace, hresp], by simp [htrace, hex, Nat.add_assoc],
      by simp [htrace, hdel, Nat.add_assoc]⟩
  obtain ⟨hnext, htimeout, hfail⟩ := hends _ u hpos hle hmade
  cases v with
  | success k => exact hnext
  | timeout => exact htimeout
  | busFailed => exact hfail

end Counting

/-! ### READ and WRITE, counted (R148) -/

/-- What a READ may have made, by its response: `k2` and `k5` attempts in its two polls where it ends well. -/
def ReadCounts (P : Params) (e d : Nat) : RespCode → Detail → Prop
  | .ok, .none => ∃ k2 k5, 1 ≤ k2 ∧ k2 ≤ P.fifoAttempts ∧ 1 ≤ k5 ∧ k5 ≤ P.fifoAttempts ∧ e = 4 + k2 + k5 ∧ d = k2 + k5
  | .ok, .noData => ∃ k2, 1 ≤ k2 ∧ k2 ≤ P.fifoAttempts ∧ e = 2 + k2 ∧ d = k2
  | _, _ => e ≤ 4 + 2 * P.fifoAttempts ∧ d ≤ 2 * P.fifoAttempts

/-- What a WRITE may have made, by its response: `k2`, `k5` and `k7` attempts in its three polls where it ends well. -/
def WriteCounts (P : Params) (e d : Nat) : RespCode → Detail → Prop
  | .ok, _ => ∃ k2 k5 k7, 1 ≤ k2 ∧ k2 ≤ P.fifoAttempts ∧ 1 ≤ k5 ∧ k5 ≤ P.fifoAttempts ∧ 1 ≤ k7 ∧ k7 ≤ P.finAttempts ∧
      e = 4 + k2 + k5 + k7 ∧ d = k2 + k5 + k7
  | .insufficientSpace, _ => ∃ k2, 1 ≤ k2 ∧ k2 ≤ P.fifoAttempts ∧ e = 2 + k2 ∧ d = k2
  | _, _ => e ≤ 4 + 2 * P.fifoAttempts + P.finAttempts ∧ d ≤ 2 * P.fifoAttempts + P.finAttempts

theorem EndsWith.endsBy {C : Nat → Nat → RespCode → Detail → Prop} {e d : Nat} {c : RespCode} {data : List Byte}
    {x : Detail} {s t : State} (h : EndsWith e d c data x s t) (hC : C e d c x) : EndsBy C s t :=
  ⟨e, d, c, data, x, h, hC⟩

theorem endsBy_readBuffer {P : Params} {s t : State} {k2 : Nat} (hk2 : 1 ≤ k2) (hk2' : k2 ≤ P.fifoAttempts)
    (h : Made (2 + k2) k2 s t) (n : U32) : EndsBy (ReadCounts P) s (readBuffer P n t) := by
  have hpos := P.fifoAttempts_pos
  refine h.configThen (fun u hu => (hu.takeError _).endsBy ⟨by omega, by omega⟩)
    (fun u hu => (hu.takeError _).endsBy ⟨by omega, by omega⟩) fun u hu => ?_
  refine hu.pollThen fun k5 v hk5 hk5' hv => ⟨?_, (hv.respond _ _ _).endsBy ⟨by omega, by omega⟩,
    (hv.takeError _).endsBy ⟨by omega, by omega⟩⟩
  refine hv.exchange (fun w hw => (hw.takeError _).endsBy ⟨by omega, by omega⟩) fun inn w _ hw => ?_
  exact (hw.respond _ _ _).endsBy ⟨k2, k5, hk2, hk2', hk5 (by omega), hk5', by omega, rfl⟩

theorem endsBy_readSequence (P : Params) (s : State) : EndsBy (ReadCounts P) s (readSequence P s) := by
  have hpos := P.fifoAttempts_pos
  have h := Made.refl s
  unfold readSequence
  split
  · refine h.configThen (fun u hu => (hu.takeError _).endsBy ⟨by omega, by omega⟩)
      (fun u hu => (hu.takeError _).endsBy ⟨by omega, by omega⟩) fun u hu => ?_
    refine hu.pollThen fun k2 v hk2 hk2' hv => ⟨?_, (hv.respond _ _ _).endsBy ⟨by omega, by omega⟩,
      (hv.takeError _).endsBy ⟨by omega, by omega⟩⟩
    refine hv.exchange (fun w hw => (hw.takeError _).endsBy ⟨by omega, by omega⟩) fun inn w _ hw => ?_
    rw [show 0 + 1 + k2 + 1 = 2 + k2 by omega, Nat.zero_add] at hw
    split
    · exact (hw.respond _ _ _).endsBy ⟨k2, hk2 (by omega), hk2', rfl, rfl⟩
    · exact endsBy_readBuffer (hk2 (by omega)) hk2' hw _
  · exact (h.takeError _).endsBy ⟨by omega, by omega⟩

theorem endsBy_writeBuffer {P : Params} {s t : State} {k2 : Nat} (hk2 : 1 ≤ k2) (hk2' : k2 ≤ P.fifoAttempts)
    (h : Made (2 + k2) k2 s t) (p : List Byte) : EndsBy (WriteCounts P) s (writeBuffer P p t) := by
  have hfifo := P.fifoAttempts_pos
  have hfin := P.finAttempts_pos
  refine h.configThen (fun u hu => (hu.takeError _).endsBy ⟨by omega, by omega⟩)
    (fun u hu => (hu.takeError _).endsBy ⟨by omega, by omega⟩) fun u hu => ?_
  refine hu.pollThen fun k5 v hk5 hk5' hv => ⟨?_, (hv.takeError _).endsBy ⟨by omega, by omega⟩,
    (hv.takeError _).endsBy ⟨by omega, by omega⟩⟩
  refine hv.exchange (fun w hw => (hw.takeError _).endsBy ⟨by omega, by omega⟩) fun _ w _ hw => ?_
  refine hw.pollThen fun k7 x hk7 hk7' hx => ⟨?_, (hx.takeError _).endsBy ⟨by omega, by omega⟩,
    (hx.takeError _).endsBy ⟨by omega, by omega⟩⟩
  exact (hx.respond _ _ _).endsBy ⟨k2, k5, k7, hk2, hk2', hk5 (by omega), hk5', hk7 (by omega), hk7', by omega, rfl⟩

theorem endsBy_writeSequence (P : Params) (p : List Byte) (s : State) :
    EndsBy (WriteCounts P) s (writeSequence P p s) := by
  have hpos := P.fifoAttempts_pos
  have h := Made.refl s
  unfold writeSequence
  split_ifs
  · exact (h.takeError _).endsBy ⟨by omega, by omega⟩
  · refine h.configThen (fun u hu => (hu.takeError _).endsBy ⟨by omega, by omega⟩)
      (fun u hu => (hu.takeError _).endsBy ⟨by omega, by omega⟩) fun u hu => ?_
    refine hu.pollThen fun k2 v hk2 hk2' hv => ⟨?_, (hv.takeError _).endsBy ⟨by omega, by omega⟩,
      (hv.takeError _).endsBy ⟨by omega, by omega⟩⟩
    refine hv.exchange (fun w hw => (hw.takeError _).endsBy ⟨by omega, by omega⟩) fun inn w _ hw => ?_
    rw [show 0 + 1 + k2 + 1 = 2 + k2 by omega, Nat.zero_add] at hw
    split
    · exact (hw.takeError _).endsBy ⟨k2, hk2 (by omega), hk2', rfl, rfl⟩
    · exact endsBy_writeBuffer (hk2 (by omega)) hk2' hw p
  · exact (h.takeError _).endsBy ⟨by omega, by omega⟩

/-- A sequence's last event is the response of its end. -/
theorem EndsBy.of_getLast {C : Nat → Nat → RespCode → Detail → Prop} {s t : State} (h : EndsBy C s t) {c : RespCode}
    {data : List Byte} {x : Detail} (hlast : t.trace.getLast? = some (.response c data x)) :
    ∃ e d, exchangeCount t.trace = exchangeCount s.trace + e ∧ delayCount t.trace = delayCount s.trace + d ∧
      C e d c x := by
  obtain ⟨e, d, c', data', x', hend, hC⟩ := h
  cases hend.last_eq.symm.trans hlast
  exact ⟨e, d, hend.exchanges_eq, hend.delays_eq, hC⟩

/-- Settles O56: the counts of the end that the last event names. -/
theorem exchangesAreCounted : Obligations.ExchangesAreCounted := by
  intro P s p _
  have hread := endsBy_readSequence P s
  have hwrite := endsBy_writeSequence P p s
  refine ⟨fun data hlast => ?_, fun hlast => ?_, fun hlast => ?_, fun hlast => ?_⟩
  · obtain ⟨e, d, hex, hdel, k2, k5, hk2, hk2', hk5, hk5', rfl, rfl⟩ := hread.of_getLast hlast
    exact ⟨k2, k5, hk2, hk2', hk5, hk5', hex, hdel⟩
  · obtain ⟨e, d, hex, -, k2, hk2, hk2', rfl, -⟩ := hread.of_getLast hlast
    exact ⟨k2, hk2, hk2', hex⟩
  · obtain ⟨e, d, hex, hdel, k2, k5, k7, hk2, hk2', hk5, hk5', hk7, hk7', rfl, rfl⟩ := hwrite.of_getLast hlast
    exact ⟨k2, k5, k7, hk2, hk2', hk5, hk5', hk7, hk7', hex, hdel⟩
  · obtain ⟨e, d, hex, -, k2, hk2, hk2', rfl, -⟩ := hwrite.of_getLast hlast
    exact ⟨k2, hk2, hk2', hex⟩

/-! ### Every command within its bounds (R231) -/

/-- At most `E` exchanges and `D` delays, whatever the response. -/
def CountsAtMost (E D : Nat) (e d : Nat) (_ : RespCode) (_ : Detail) : Prop := e ≤ E ∧ d ≤ D

theorem EndsBy.mono {C C' : Nat → Nat → RespCode → Detail → Prop} {s t : State} (h : EndsBy C s t)
    (hC : ∀ {e d c x}, C e d c x → C' e d c x) : EndsBy C' s t := by
  obtain ⟨e, d, c, data, x, hend, hc⟩ := h
  exact ⟨e, d, c, data, x, hend, hC hc⟩

theorem ReadCounts.atMost {P : Params} {e d : Nat} {c : RespCode} {x : Detail} (h : ReadCounts P e d c x) :
    CountsAtMost (4 + 2 * P.fifoAttempts) (2 * P.fifoAttempts) e d c x := by
  unfold ReadCounts at h
  unfold CountsAtMost
  split at h <;> omega

theorem WriteCounts.atMost {P : Params} {e d : Nat} {c : RespCode} {x : Detail} (h : WriteCounts P e d c x) :
    CountsAtMost (4 + 2 * P.fifoAttempts + P.finAttempts) (2 * P.fifoAttempts + P.finAttempts) e d c x := by
  unfold WriteCounts at h
  unfold CountsAtMost
  split at h <;> omega

theorem endsBy_initSequence (P : Params) {s : State} (hb : s.budget ≤ P.pwrAttempts) :
    EndsBy (CountsAtMost (1 + P.pwrAttempts) P.pwrAttempts) s (initSequence P s) := by
  have h := Made.refl s
  unfold initSequence
  split
  · refine (h.congr (u := { s with pwr := .poweringOn }) rfl rfl).exchange
      (fun u hu => (hu.takeError _).endsBy ⟨by omega, by omega⟩) fun _ u hbudget hu => ?_
    refine hu.pollThen fun k v _ hk hv => ?_
    have hk' : k ≤ s.budget := hbudget ▸ hk
    have hcounts : CountsAtMost (1 + P.pwrAttempts) P.pwrAttempts (0 + 1 + k) (0 + k) .ok .none :=
      ⟨by omega, by omega⟩
    exact ⟨((hv.congr (u := { v with pwr := .on }) rfl rfl).respond _ _ _).endsBy hcounts,
      (hv.takeError _).endsBy hcounts, (hv.takeError _).endsBy hcounts⟩
  · exact (h.takeError _).endsBy ⟨by omega, by omega⟩

theorem endsBy_releaseSequence (P : Params) (s : State) : EndsBy (CountsAtMost 1 0) s (releaseSequence P s) := by
  have h := Made.refl s
  unfold releaseSequence
  split
  · exact h.exchange (fun u hu => (hu.endSession P _).endsBy ⟨le_rfl, le_rfl⟩) fun _ u _ hu =>
      (hu.endSession P _).endsBy ⟨le_rfl, le_rfl⟩
  · exact (h.endSession P _).endsBy ⟨Nat.zero_le 1, le_rfl⟩

/-- A command at the port ends within the bounds of its pseudocode. -/
theorem ends_of_command {s : State} {w : PortWord} {rest : List PortWord} {i : Instr} {f : State → State} {E D : Nat}
    (hs : s.seq = .idle) (hr : s.resetIn = []) (hp : s.port = w :: rest) (hi : decodeCommand w = .ok i)
    (hf : commandSequence Config.params i = some f)
    (hends : EndsBy (CountsAtMost E D) { s with port := rest } (f { s with port := rest })) :
    ∃ k t r, run k s = .next t ∧ t.seq = .idle ∧ t.port = rest ∧ responses t.trace = responses s.trace ++ [r] ∧
      k ≤ 1 + (exchangeCount t.trace - exchangeCount s.trace) + (delayCount t.trace - delayCount s.trace) ∧
      exchangeCount t.trace - exchangeCount s.trace ≤ E ∧ delayCount t.trace - delayCount s.trace ≤ D := by
  obtain ⟨k, hrun, hcount⟩ := run_of_command hs hr hp hi hf
  obtain ⟨e, d, c, data, x, ⟨hseq, hport, hresp, -, hex, hdel⟩, he, hd⟩ := hends
  simp only at hex hdel
  exact ⟨k + 1, _, (c, data, x), hrun, hseq, hport, hresp, by omega, by omega, by omega⟩

/-- Settles O55: each of the four commands ends within the bounds of its pseudocode. -/
theorem commandsEndWithinTheirBounds : Obligations.CommandsEndWithinTheirBounds := by
  intro s w rest i hinv hs hr hp hi
  rcases decodeCommand_cases hi with rfl | rfl | ⟨rfl, -⟩ | rfl
  · exact ends_of_command hs hr hp hi rfl (endsBy_initSequence _ hinv.budget_le)
  · exact ends_of_command hs hr hp hi rfl ((endsBy_readSequence _ _).mono ReadCounts.atMost)
  · exact ends_of_command hs hr hp hi rfl ((endsBy_writeSequence _ _ _).mono WriteCounts.atMost)
  · obtain ⟨k, t, r, hrun, hseq, hport, hresp, hk, he, hd⟩ :=
      ends_of_command hs hr hp hi rfl (endsBy_releaseSequence _ _)
    exact ⟨k, t, r, hrun, hseq, hport, hresp, hk, he, Nat.le_zero.mp hd⟩

/-! ### A WRITE read back (R149)

What a sequence adds to the record and uses up of the script, exchange by exchange of a script that is known. -/

/-- From `s` to `t` the record gains events whose responses are `rs` and whose data-writes are `ws`, and of the script
`rest` is left. -/
structure Adds (P : Params) (rs : List (RespCode × List Byte × Detail)) (ws : List Event) (rest : List Answer)
    (s t : State) : Prop where
  pwr_eq : t.pwr = s.pwr
  answers_eq : t.answers = rest
  trace_eq : ∃ record, t.trace = s.trace ++ record ∧ responses record = rs ∧ dataWrites P record = ws

section Adds

variable {P : Params} {rs rs' : List (RespCode × List Byte × Detail)} {ws ws' : List Event} {answers rest : List Answer}
  {s t u : State}

theorem Adds.trans (hst : Adds P rs ws answers s t) (htu : Adds P rs' ws' rest t u) :
    Adds P (rs ++ rs') (ws ++ ws') rest s u := by
  obtain ⟨hpwr, -, record, htrace, rfl, rfl⟩ := hst
  obtain ⟨hpwr', hans, record', htrace', rfl, rfl⟩ := htu
  exact ⟨hpwr'.trans hpwr, hans, record ++ record', by simp [htrace', htrace], by simp, by simp⟩

theorem adds_respond (c : RespCode) (data : List Byte) (x : Detail) (h : s.answers = rest) :
    Adds P [(c, data, x)] [] rest s (respond c data x s) :=
  ⟨rfl, h, [.response c data x], rfl, rfl, by simp⟩

theorem adds_afterExchange {out inn : List Byte} (h : s.answers = .ok inn :: rest) (hlen : inn.length = out.length) :
    Adds P [] (dataWrites P [.exchange out (some inn)]) rest s (afterExchange out s) :=
  ⟨rfl, by simp [h], [.exchange out (some inn)], by simp [answerFor_of_cons h hlen], rfl, rfl⟩

/-- An exchange whose answer is the next of the script, other than a data-write, and what follows it. -/
theorem adds_exchange {out inn : List Byte} {o : Opcode} {f : State → State} {g : List Byte → State → State}
    (h : s.answers = .ok inn :: answers) (hlen : inn.length = out.length) (ho : out.head? = some (P.opcode o))
    (hne : o ≠ .dataWrite) (hg : ∀ u, u.answers = answers → Adds P rs ws rest u (g inn u)) :
    Adds P rs ws rest s (exchange out f g s) := by
  have hfirst : Adds P [] [] answers s (afterExchange out s) := by
    simpa [dataWrites_exchange P ho, hne] using adds_afterExchange (P := P) h hlen
  rw [exchange_of_some (answerFor_of_cons h hlen)]
  exact hfirst.trans (hg _ hfirst.answers_eq)

/-- A data-write whose answer is the next of the script, and what follows it. -/
theorem adds_dataWrite {p inn : List Byte} {f : State → State} {g : List Byte → State → State}
    (h : s.answers = .ok inn :: answers) (hlen : inn.length = (encDataWrite P p).length)
    (hg : ∀ u, u.answers = answers → Adds P rs ws rest u (g inn u)) :
    Adds P rs (.exchange (encDataWrite P p) (some inn) :: ws) rest s (exchange (encDataWrite P p) f g s) := by
  have hfirst : Adds P [] [.exchange (encDataWrite P p) (some inn)] answers s (afterExchange (encDataWrite P p) s) := by
    simpa [dataWrites_exchange P (encDataWrite_head P p)] using adds_afterExchange (P := P) h hlen
  rw [exchange_of_some (answerFor_of_cons h hlen)]
  exact hfirst.trans (hg _ hfirst.answers_eq)

/-- A config frame whose answer is the next of the script, and what follows it. -/
theorem adds_configThen {o : Opcode} {a l : U32} {inn : List Byte} {next : State → State} (hl : l ≠ 0#32)
    (hne : o ≠ .dataWrite) (h : s.answers = .ok inn :: answers) (hlen : inn.length = 9)
    (hnext : ∀ u, u.answers = answers → Adds P rs ws rest u (next u)) :
    Adds P rs ws rest s (configThen (encConfig (P.opcode o) a l) next s) := by
  rw [encConfig_of_ne hl]
  exact adds_exchange h (by simp [hlen, le32]) rfl hne hnext

/-- The statuses `misses` and then `r` show a flag within `n` attempts. -/
structure ShowsWithin (flag : Byte) (n : Nat) (misses : List (Byte × Byte)) (r : Byte) : Prop where
  few : misses.length < n
  miss : ∀ m ∈ misses, hit m.2 flag = false
  shown : hit r flag = true

/-- A poll through scripted misses, fewer than its attempts, to a hit, and what follows its success. -/
theorem adds_pollThen {site : PollSite} {flag : Byte} {n : Nat} {misses : List (Byte × Byte)} {x r : Byte}
    {timeout next : State → State} (h : s.answers = statusAnswers misses ++ .ok [x, r] :: answers)
    (hshow : ShowsWithin flag n misses r)
    (hnext : ∀ u, u.answers = answers → Adds P rs ws rest u (next u)) :
    Adds P rs ws rest s (pollThen P site flag n timeout next s) := by
  obtain ⟨hn, hmiss, hhit⟩ := hshow
  obtain ⟨d, rfl⟩ : ∃ d, n = misses.length + (d + 1) := ⟨n - misses.length - 1, by omega⟩
  obtain ⟨u, hloop, hans, -⟩ := exists_pollLoop_eq_of_misses P site flag hmiss
    (s := loadCounter site (misses.length + (d + 1)) s) (by simpa using h) 0 (d + 1)
  rw [pollLoop_succ_of_answers P site flag (r := (x, r)) hans, if_pos hhit] at hloop
  obtain ⟨hpwr, -⟩ :=
    pollLoop_frame P site flag 0 (misses.length + (d + 1)) (loadCounter site (misses.length + (d + 1)) s)
  obtain ⟨replies, -, -, htrace⟩ :=
    pollLoop_trace P site flag 0 (misses.length + (d + 1)) (loadCounter site (misses.length + (d + 1)) s)
  rw [hloop] at hpwr htrace
  have hfirst : Adds P [] [] answers s (afterAttempt P site u) :=
    ⟨by simpa using hpwr, by simp [hans], attemptEvents P replies, by simpa using htrace, by simp, by simp⟩
  rw [pollThen, poll, hloop]
  exact hfirst.trans (hnext _ hfirst.answers_eq)

/-- A WRITE against a module that shows each flag within its poll's budget and has room. -/
theorem adds_writeSequence {p c1 space c2 d : List Byte} {m1 m2 m3 : List (Byte × Byte)} {x1 r1 x2 r2 x3 r3 : Byte}
    (hon : s.pwr = .on) (hpos : 1 ≤ p.length) (hp : p.length < 2 ^ 32)
    (hc1 : c1.length = 9) (hspace : space.length = 5) (hc2 : c2.length = 9) (hd : d.length = p.length + 1)
    (h1 : ShowsWithin P.flagFifoReady P.fifoAttempts m1 r1) (h2 : ShowsWithin P.flagFifoReady P.fifoAttempts m2 r2)
    (h3 : ShowsWithin P.flagRdwrFinished P.finAttempts m3 r3) (hroom : p.length ≤ (lengthField space).toNat)
    (h : s.answers = .ok c1 :: (statusAnswers m1 ++ .ok [x1, r1] :: .ok space :: .ok c2 ::
      (statusAnswers m2 ++ .ok [x2, r2] :: .ok d :: (statusAnswers m3 ++ .ok [x3, r3] :: rest)))) :
    Adds P [(.ok, [], .none)] [.exchange (encDataWrite P p) (some d)] rest s (writeSequence P p s) := by
  rw [writeSequence, if_pos hon, if_neg (by omega)]
  refine adds_configThen (by decide) nofun h hc1 fun u hu => ?_
  refine adds_pollThen hu h1 fun u hu => ?_
  refine adds_exchange hu (by simpa using hspace) (encDataRead_head P _) nofun fun u hu => ?_
  rw [if_neg (by omega)]
  refine adds_configThen (ofNat_ne_zero_of_pos hpos hp) nofun hu hc2 fun u hu => ?_
  refine adds_pollThen hu h2 fun u hu => ?_
  refine adds_dataWrite hu hd fun u hu => ?_
  refine adds_pollThen hu h3 fun u hu => ?_
  exact adds_respond _ _ _ hu

/-- A READ against a module that shows the flag within each poll's budget and has bytes to give. -/
theorem adds_readSequence {p c1 available c2 : List Byte} {m1 m2 : List (Byte × Byte)} {x1 r1 x2 r2 x3 : Byte}
    (hon : s.pwr = .on) (hpos : 1 ≤ p.length) (hc1 : c1.length = 9) (havailable : available.length = 5)
    (hc2 : c2.length = 9)
    (h1 : ShowsWithin P.flagFifoReady P.fifoAttempts m1 r1) (h2 : ShowsWithin P.flagFifoReady P.fifoAttempts m2 r2)
    (hn : (lengthField available).toNat = p.length)
    (h : s.answers = .ok c1 :: (statusAnswers m1 ++ .ok [x1, r1] :: .ok available :: .ok c2 ::
      (statusAnswers m2 ++ .ok [x2, r2] :: .ok (x3 :: p) :: rest))) :
    Adds P [(.ok, p, .none)] [] rest s (readSequence P s) := by
  have hne : lengthField available ≠ 0#32 := by
    intro hzero
    rw [hzero] at hn
    exact absurd hn.symm (Nat.one_le_iff_ne_zero.mp hpos)
  have hdata : dataField (lengthField available) (x3 :: p) = p := by simp [dataField, hn]
  rw [readSequence, if_pos hon]
  refine adds_configThen (by decide) nofun h hc1 fun u hu => ?_
  refine adds_pollThen hu h1 fun u hu => ?_
  refine adds_exchange hu (by simpa using havailable) (encDataRead_head P _) nofun fun u hu => ?_
  rw [if_neg hne]
  refine adds_configThen hne nofun hu hc2 fun u hu => ?_
  refine adds_pollThen hu h2 fun u hu => ?_
  refine adds_exchange hu (by simp [hn]) (encDataRead_head P _) nofun fun u hu => ?_
  rw [hdata]
  exact adds_respond _ _ _ hu

end Adds

/-- Settles O58: the WRITE uses up its part of the script, and the READ the part after it. -/
theorem writeThenReadRoundTrip : Obligations.WriteThenReadRoundTrip := by
  intro P s p c1 c2 c3 c4 d m1 m2 m3 m4 m5 x1 x2 x3 x4 x5 x6 x7 x8 r1 r2 r3 r4 r5 f0 f1 f2 f3 n0 n1 n2 n3 rest
    hon hpos hp hc1 hc2 hc3 hc4 hd hfifo hfew hmiss hr1 hr2 hr3 hr4 hr5 hroom hn h
  have hready : ∀ {m r}, m ∈ [m1, m2, m4, m5] → hit r P.flagFifoReady = true →
      ShowsWithin P.flagFifoReady P.fifoAttempts m r := fun hm hr => ⟨(hfifo _ hm).1, (hfifo _ hm).2, hr⟩
  obtain ⟨hfield, -⟩ := dataReadTakesAvailable
  rw [← hfield x2] at hroom
  rw [← hfield x6] at hn
  have hwrite := adds_writeSequence hon hpos hp hc1 rfl hc2 hd (hready (by simp) hr1) (hready (by simp) hr2)
    ⟨hfew, hmiss, hr3⟩ hroom h
  have hread := adds_readSequence (hwrite.pwr_eq.trans hon) hpos hc3 rfl hc4 (hready (by simp) hr4)
    (hready (by simp) hr5) hn hwrite.answers_eq
  obtain ⟨hpwr, hans, record, htrace, hresp, hwrites⟩ := hwrite.trans hread
  exact ⟨record, htrace, hresp, hwrites, hpwr.trans hon, hans⟩

end Sys2Proof.Machine
end

section
/-! Proofs of the statements about the Session and its power state (43_session_power.md): the rows of the power state's
table, a failed exchange, INIT and RELEASE run whole, and the handshake on a script of statuses. -/

namespace Sys2Proof.Machine

/-! ### The power state after each part of a step -/

/-- Only the site of INIT changes the power state when its poll ends (R138). -/
theorem onSuccess_pwr {site : PollSite} (hsite : site ≠ .init) (s : State) : (onSuccess site s).pwr = s.pwr := by
  cases site with
  | init => exact absurd rfl hsite
  | read2 | read5 | write2 | write5 | write7 => rfl

theorem onTimeout_pwr {site : PollSite} (hsite : site ≠ .init) (s : State) : (onTimeout site s).pwr = s.pwr := by
  cases site with
  | init => exact absurd rfl hsite
  | read2 | read5 | write2 | write5 | write7 => rfl

theorem nextAttempt_pwr {site : PollSite} (hsite : site ≠ .init) (s : State) : (nextAttempt site s).pwr = s.pwr := by
  unfold nextAttempt
  split
  · exact onTimeout_pwr hsite s
  · rfl

/-- With an attempt left no site's poll ends, so the power state stays, INIT's included. -/
theorem nextAttempt_pwr_of_ne_zero {site : PollSite} {s : State} (h : remaining site s ≠ 0) :
    (nextAttempt site s).pwr = s.pwr := by rw [nextAttempt, if_neg h]

theorem beginPoll_pwr {site : PollSite} (hsite : site ≠ .init) (P : Params) (s : State) :
    (beginPoll P site s).pwr = s.pwr := by rw [beginPoll_of_ne_init hsite]

theorem takeAvailable_pwr (inn : List Byte) (s : State) : (takeAvailable inn s).pwr = s.pwr := by
  unfold takeAvailable
  split <;> rfl

theorem takeFreeSpace_pwr (inn : List Byte) (s : State) : (takeFreeSpace inn s).pwr = s.pwr := by
  unfold takeFreeSpace
  split <;> rfl

theorem acceptRead_pwr (s : State) : (acceptRead s).pwr = s.pwr := by
  unfold acceptRead
  split <;> rfl

theorem acceptWrite_pwr (p : List Byte) (s : State) : (acceptWrite p s).pwr = s.pwr := by
  unfold acceptWrite
  split_ifs <;> rfl

/-! ### The rows of the power state's table (R163) -/

/-- A step from `s` to `t` keeps the power state, or is a row of R163's table with that row's cause. -/
inductive PowerRow (s t : State) : Prop
  | keep (h : t.pwr = s.pwr)
  | reset (hto : t.pwr = .off) (hreset : s.resetIn.head? = some true)
  | initAccepted (hfrom : s.pwr = .off) (hto : t.pwr = .poweringOn) (hs : s.seq = .idle) (ht : t.seq = .pOn)
      (hport : ∃ w, s.port.head? = some w ∧ decodeCommand w = .ok .init)
  | slaveOn (hfrom : s.pwr = .poweringOn) (hto : t.pwr = .on) (hs : s.seq = .pStat)
      (hanswer : ∃ inn, answerFor (encStatusRead Config.params) s = some inn ∧
        hit (statusByte inn) Config.params.flagSlaveOn = true)
  | budgetUsedUp (hfrom : s.pwr = .poweringOn) (hto : t.pwr = .failed) (hs : s.seq = .pStat) (hbudget : s.budget = 1)
      (hanswer : ∃ inn, answerFor (encStatusRead Config.params) s = some inn ∧
        hit (statusByte inn) Config.params.flagSlaveOn = false)
  | initFailed (hfrom : s.pwr = .poweringOn) (hto : t.pwr = .failed)
      (hanswer : (s.seq = .pOn ∧ answerFor (encPowerOn Config.params) s = none) ∨
        (s.seq = .pStat ∧ answerFor (encStatusRead Config.params) s = none))
  | transferFailed (hfrom : s.pwr = .on) (hto : t.pwr = .failed) (hs : s.seq ≠ .xOff)
      (hanswer : ∃ i out, phaseFrame Config.params s = some i ∧ encode Config.params i = some (.frame out) ∧
        answerFor out s = none)
  | powerOff (hfrom : s.pwr = .on) (hto : t.pwr = .off) (hs : s.seq = .xOff)
  | failedReleased (hfrom : s.pwr = .failed) (hto : t.pwr = .off) (hs : s.seq = .idle)
      (hport : ∃ w, s.port.head? = some w ∧ decodeCommand w = .ok .release)

namespace PowerRow

/-! #### The frames of READ and WRITE -/

section Transfer

variable {s : State} {i : Instr} {out : List Byte}

/-- An exchange of READ or WRITE fails, or leaves the power state. `u` is `s` at the exchange, an attempt's decrement and the
sample of the reset input aside. -/
theorem of_exchange (hon : s.pwr = .on) (hs : s.seq ≠ .xOff) (hi : phaseFrame Config.params s = some i)
    (henc : encode Config.params i = some (.frame out)) {u : State} (hpwr : u.pwr = s.pwr)
    (hans : answerFor out u = answerFor out s) {g : List Byte → State → State} (hg : ∀ inn v, (g inn v).pwr = v.pwr) :
    PowerRow s (exchange out busFail g u) := by
  rcases exchange_cases out busFail g u with ⟨hfail, heq⟩ | ⟨inn, -, -, heq⟩ <;> rw [heq]
  · exact .transferFailed hon rfl hs ⟨i, out, hi, henc, hans.symm.trans hfail⟩
  · exact .keep ((hg inn _).trans hpwr)

/-- A config frame that cannot be built is an error that is not fatal. -/
theorem of_configPhase (hon : s.pwr = .on) (hs : s.seq ≠ .xOff) (hi : phaseFrame Config.params s = some i)
    {frame : Except FrameError (List Byte)} (henc : encode Config.params i = frame.toOption.map .frame)
    {site : PollSite} (hsite : site ≠ .init) : PowerRow s (configPhase Config.params site frame (tick s)) := by
  match frame with
  | .error .invalidArgument => exact .keep rfl
  | .ok out => exact of_exchange (u := tick s) hon hs hi henc rfl rfl fun _ => beginPoll_pwr hsite Config.params

/-- An attempt of a poll of READ or WRITE. -/
theorem of_statusAttempt {site : PollSite} (hsite : site ≠ .init) (hon : s.pwr = .on) (hs : s.seq ≠ .xOff)
    (hi : phaseFrame Config.params s = some .statusRead) :
    PowerRow s (statusAttempt Config.params site (tick s)) := by
  refine of_exchange hon hs hi rfl (by simp) (by simp) fun inn v => ?_
  split
  · exact onSuccess_pwr hsite v
  · exact nextAttempt_pwr hsite v

end Transfer

/-! #### The frames of INIT -/

section Handshake

variable {s : State} (h : Inv Config.params s)
include h

/-- The power-on frame goes out with the whole budget, so an attempt is left. -/
theorem of_powerOn (hs : s.seq = .pOn) :
    PowerRow s (exchange (encPowerOn Config.params) busFail (fun _ => beginPoll Config.params .init) (tick s)) := by
  have hmode : s.pwr = .poweringOn := eq_of_beq (hs ▸ h.mode : modeFits .pOn s.pwr = true)
  have hbudget : s.budget ≠ 0 := by
    rw [h.budget_on hs]
    exact Nat.one_le_iff_ne_zero.mp Config.params.pwrAttempts_pos
  rcases exchange_cases (encPowerOn Config.params) busFail (fun _ => beginPoll Config.params .init) (tick s) with
    ⟨hfail, heq⟩ | ⟨inn, -, -, heq⟩ <;> rw [heq]
  · exact .initFailed hmode rfl (.inl ⟨hs, hfail⟩)
  · exact .keep (nextAttempt_pwr_of_ne_zero (site := .init) hbudget)

/-- The handshake's attempt fails, sees `SLAVE_ON`, was the last of the budget, or leaves the power state. -/
theorem of_handshakeAttempt (hs : s.seq = .pStat) : PowerRow s (statusAttempt Config.params .init (tick s)) := by
  have hmode : s.pwr = .poweringOn := eq_of_beq (hs ▸ h.mode : modeFits .pStat s.pwr = true)
  have hbudget : 1 ≤ s.budget := h.attempts .init (by rw [hs]; rfl)
  unfold statusAttempt
  cases hans : answerFor (encStatusRead Config.params) s with
  | none =>
    rw [exchange_of_none (by simpa using hans)]
    exact .initFailed hmode rfl (.inr ⟨hs, hans⟩)
  | some inn =>
    rw [exchange_of_some (by simpa using hans)]
    cases hhit : hit (statusByte inn) (siteFlag Config.params .init) with
    | true => exact .slaveOn hmode rfl hs ⟨inn, hans, hhit⟩
    | false =>
      rw [if_neg Bool.false_ne_true, nextAttempt]
      split
      · rename_i hlast
        have hone : s.budget = 1 := Nat.le_antisymm (Nat.le_of_sub_eq_zero hlast) hbudget
        exact .budgetUsedUp hmode rfl hs hone ⟨inn, hans, hhit⟩
      · exact .keep rfl

end Handshake

/-! #### Every kind of step -/

/-- The step of a command in progress that is a frame. -/
theorem of_phaseFrame {s t : State} {i : Instr} (h : Inv Config.params s) (hi : phaseFrame Config.params s = some i)
    (ht : exec i (tick s) = .next t) : PowerRow s t := by
  have hon : ∀ {p : Phase}, s.seq = p → modeFits p = (· == .on) → s.pwr = .on := fun hs hp =>
    eq_of_beq ((congrFun hp s.pwr).symm.trans (hs ▸ h.mode))
  have hoff : ∀ {p : Phase}, s.seq = p → p ≠ .xOff → s.seq ≠ .xOff := fun hs hp => hs ▸ hp
  rcases exec_phaseFrame_cases (s := tick s) hi ht with ⟨site, hs, rfl, rfl⟩ | ⟨hs, -, rfl⟩ |
    ⟨site, reg, l, hconfig, rfl, rfl⟩ | ⟨hs, rfl, rfl⟩ | ⟨hs, rfl, rfl⟩ | ⟨hs, rfl, rfl⟩ | ⟨hs, rfl, rfl⟩ |
    ⟨hs, rfl, rfl⟩ | ⟨hs, -, rfl⟩
  · cases site with
    | init => exact of_handshakeAttempt h hs
    | read2 | read5 | write2 | write5 | write7 => exact of_statusAttempt nofun (hon hs rfl) (hoff hs nofun) hi
  · exact of_powerOn h hs
  · rcases hconfig with ⟨hs, rfl, -⟩ | ⟨hs, rfl, -⟩ | ⟨hs, rfl, -⟩ <;>
      exact of_configPhase (hon hs rfl) (hoff hs nofun) hi rfl nofun
  · exact of_configPhase (hon hs rfl) (hoff hs nofun) hi rfl nofun
  · exact of_exchange (u := tick s) (hon hs rfl) (hoff hs nofun) hi rfl rfl rfl takeAvailable_pwr
  · exact of_exchange (u := tick s) (hon hs rfl) (hoff hs nofun) hi rfl rfl rfl takeFreeSpace_pwr
  · exact of_exchange (u := tick s) (hon hs rfl) (hoff hs nofun) hi rfl rfl rfl fun _ _ => rfl
  · exact of_exchange (u := tick s) (hon hs rfl) (hoff hs nofun) hi rfl rfl rfl fun _ =>
      beginPoll_pwr (site := .write7) nofun Config.params
  · refine .powerOff (hon hs rfl) ?_ hs
    rcases exchange_cases (encPowerOff Config.params) (endSession Config.params .busUnavailable)
      (fun _ => endSession Config.params .ok) (tick s) with ⟨-, heq⟩ | ⟨-, -, -, heq⟩ <;> rw [heq] <;> rfl

/-- The acceptance of a command. -/
theorem of_command {s t : State} {w : PortWord} {i : Instr} (h : Inv Config.params s) (hs : s.seq = .idle)
    (hport : s.port.head? = some w) (hi : decodeCommand w = .ok i) (ht : exec i (takeCommand (tick s)) = .next t) :
    PowerRow s t := by
  have hidle : (takeCommand (tick s)).seq = .idle := hs
  rcases decodeCommand_cases hi with rfl | rfl | ⟨rfl, -⟩ | rfl
  · rw [exec_init_of_idle hidle] at ht; cases ht
    unfold acceptInit
    split
    · rename_i hoff
      exact .initAccepted hoff rfl hs rfl ⟨w, hport, hi⟩
    · exact .keep rfl
  · rw [exec_read_of_idle hidle] at ht; cases ht
    exact .keep (acceptRead_pwr _)
  · rw [exec_write_of_idle hidle] at ht; cases ht
    exact .keep (acceptWrite_pwr _ _)
  · rw [exec_release_of_idle hidle] at ht; cases ht
    unfold acceptRelease
    split
    · exact .keep rfl
    · rename_i hnotOn
      cases hpwr : s.pwr with
      | off => exact .keep hpwr.symm
      | poweringOn => exact absurd h.mode (by simp [hs, hpwr, modeFits])
      | on => exact absurd hpwr hnotOn
      | failed => exact .failedReleased hpwr rfl hs ⟨w, hport, hi⟩

end PowerRow

/-- Settles O46: each kind of step keeps the power state or is a row, read off row by row. -/
theorem powerTransitions : Obligations.PowerTransitions := by
  intro s t h ht
  have hrow : PowerRow s t := by
    rcases step_cases ht with ⟨hr, rfl⟩ | ⟨-, -, rfl⟩ | ⟨site, -, rfl⟩ | ⟨i, hi, hexec⟩ | ⟨w, rest, i, hs, hp, hi, hexec⟩
    · exact .reset rfl hr
    · exact .keep rfl
    · exact .keep rfl
    · exact .of_phaseFrame h hi hexec
    · exact .of_command h hs (by rw [hp]; rfl) hi hexec
  cases hrow with
  | keep h => exact .inl h
  | reset hto hr => exact .inr (.inl ⟨hto, hr⟩)
  | initAccepted hfrom hto hs ht hport => exact .inr (.inr (.inl ⟨hfrom, hto, hs, ht, hport⟩))
  | slaveOn hfrom hto hs hans => exact .inr (.inr (.inr (.inl ⟨hfrom, hto, hs, hans⟩)))
  | budgetUsedUp hfrom hto hs hb hans => exact .inr (.inr (.inr (.inr (.inl ⟨hfrom, hto, hs, hb, hans⟩))))
  | initFailed hfrom hto hans => exact .inr (.inr (.inr (.inr (.inr (.inl ⟨hfrom, hto, hans⟩)))))
  | transferFailed hfrom hto hs hans => exact .inr (.inr (.inr (.inr (.inr (.inr (.inl ⟨hfrom, hto, hs, hans⟩))))))
  | powerOff hfrom hto hs => exact .inr (.inr (.inr (.inr (.inr (.inr (.inr (.inl ⟨hfrom, hto, hs⟩)))))))
  | failedReleased hfrom hto hs hport =>
    exact .inr (.inr (.inr (.inr (.inr (.inr (.inr (.inr ⟨hfrom, hto, hs, hport⟩)))))))

/-! ### Commands refused for the power state (R166, R167) -/

/-- Settles O11: `BadState` is not fatal. -/
theorem initOutsideOffIsBadState : Obligations.InitOutsideOffIsBadState := by
  intro s hs hnotOff
  rw [exec_init_of_idle hs, acceptInit, if_neg hnotOff, takeError_of_not_fatal rfl, hs]

/-- Settles O12: `NotReady` is not fatal, and a WRITE's payload is not looked at. -/
theorem gateRefusesTransfers : Obligations.GateRefusesTransfers := by
  intro s p hs hnotOn
  rw [exec_read_of_idle hs, acceptRead, if_neg hnotOn, exec_write_of_idle hs, acceptWrite, if_neg hnotOn,
    takeError_of_not_fatal rfl, hs]
  exact ⟨rfl, rfl⟩

/-! ### A failed exchange of INIT, READ or WRITE (R164) -/

section Frame

variable {s : State} {i : Instr} {out : List Byte} (henc : encode Config.params i = some (.frame out))
include henc

/-- The one frame that the handshake's attempt issues. -/
theorem eq_statusRead_of_enabled_pStat (hi : enabled i .pStat = true) : i = .statusRead := by
  cases i with
  | statusRead => rfl
  | configRead | configWrite | dataRead | dataWrite | powerOn | powerOff => cases hi
  | poll | init | read | write | release => cases henc

/-- Every frame but STATUS_READ, which spends an attempt first, and POWER_OFF is an exchange with the `on BusFail` clause
of R164. -/
theorem exec_frame_eq_exchange (hs : s.seq ≠ .xOff) (hi : enabled i s.seq = true) (hne : i ≠ .statusRead) :
    ∃ g, exec i s = .next (exchange out busFail g s) := by
  cases i with
  | statusRead => exact absurd rfl hne
  | configRead a l =>
    obtain ⟨site, hsite⟩ := Option.isSome_iff_exists.mp ((isSome_siteAfterConfigRead s.seq a l).trans hi)
    have hout : encConfigRead Config.params a l = .ok out := toOption_map_frame_eq_some.mp henc
    exact ⟨_, by rw [exec_configRead_of_site hsite, hout, configPhase]⟩
  | configWrite a l =>
    obtain ⟨site, hsite⟩ := Option.isSome_iff_exists.mp ((isSome_siteAfterConfigWrite s.seq a l).trans hi)
    have hout : encConfigWrite Config.params a l = .ok out := toOption_map_frame_eq_some.mp henc
    exact ⟨_, by rw [exec_configWrite_of_site hsite, hout, configPhase]⟩
  | dataRead n =>
    cases henc
    have hphase : (s.seq = .rDatL ∨ s.seq = .wDatL) ∨ s.seq = .rDatB := by simpa [enabled] using hi
    rcases hphase with (h | h) | h
    · exact ⟨_, exec_dataRead_of_rDatL h n⟩
    · exact ⟨_, exec_dataRead_of_wDatL h n⟩
    · exact ⟨_, exec_dataRead_of_rDatB h n⟩
  | dataWrite p => cases henc; exact ⟨_, exec_dataWrite_of_wData (eq_of_beq hi) p⟩
  | powerOn => cases henc; exact ⟨_, exec_powerOn_of_pOn (eq_of_beq hi)⟩
  | powerOff => exact absurd (eq_of_beq hi) hs
  | poll | init | read | write | release => cases henc

/-- A failed exchange of a frame but POWER_OFF, in one piece: the attempt it was of stays spent (R165(f)). -/
theorem exec_frame_of_answer_none (hs : s.seq ≠ .xOff) (hi : enabled i s.seq = true) (hfail : answerFor out s = none) :
    exec i s = .next
      { s with pwr := .failed, budget := if s.seq = .pStat then s.budget - 1 else s.budget, seq := .idle, cnt := 0,
               len := 0#32, buf := [], answers := s.answers.tail,
               trace := s.trace ++ [.exchange out none, .response .busUnavailable [] .none] } := by
  by_cases hstatus : i = .statusRead
  · subst hstatus
    cases henc
    obtain ⟨site, hsite⟩ := Option.isSome_iff_exists.mp hi
    have hphase := siteOfStat_eq_some.mp hsite
    rw [exec_statusRead_of_site hphase, statusAttempt, exchange_busFail (by simpa using hfail), hphase]
    cases site <;> rfl
  · have hphase : s.seq ≠ .pStat := fun h => hstatus (eq_statusRead_of_enabled_pStat henc (h ▸ hi))
    obtain ⟨g, hexec⟩ := exec_frame_eq_exchange henc hs hi hstatus
    rw [hexec, exchange_busFail hfail, if_neg hphase]

end Frame

/-- Settles O30: the frame takes its `on BusFail` clause, and `Failed` is neither `On` nor `Off`. -/
theorem failedExchangeIsFatal : Obligations.FailedExchangeIsFatal := by
  intro s i out hs hi henc hfail
  refine ⟨_, exec_frame_of_answer_none henc hs hi hfail, rfl, ?read, fun p => ?write, ?init⟩
  case read => exact (gateRefusesTransfers _ [] rfl (by nofun)).1
  case write => exact (gateRefusesTransfers _ p rfl (by nofun)).2
  case init => exact initOutsideOffIsBadState _ rfl nofun

/-! ### INIT and RELEASE, run from the port -/

/-- Settles O51: INIT's pseudocode is what an INIT at the port runs as. -/
theorem initRunsItsSequence : Obligations.InitRunsItsSequence := by
  intro s w rest hs hr hp hi
  obtain ⟨k, hrun, -⟩ := run_of_command hs hr hp hi rfl
  exact ⟨k + 1, hrun⟩

/-- Settles O54: in `On` the step after the acceptance is the power-off frame, elsewhere the acceptance responds. -/
theorem releaseRunsItsSequence : Obligations.ReleaseRunsItsSequence := by
  intro s w rest hs hr hp hi
  have haccept : step s = .next (acceptRelease Config.params { s with port := rest }) :=
    (step_of_command hs hr hp hi).trans (exec_release_of_idle hs)
  by_cases hon : s.pwr = .on
  · rw [acceptRelease, if_pos hon] at haccept
    have hframe := (step_inPhase (q := .xOff) (l := s.len) (b := s.buf) (s := { s with port := rest }) hr rfl).trans
      (powerOffEndsTheSession _ rfl)
    refine ⟨2, _, (run_succ haccept).trans (run_succ hframe), rfl, rfl, rfl, rfl, ?_⟩
    rw [if_pos hon]
    exact ⟨rfl, rfl⟩
  · rw [acceptRelease, if_neg hon] at haccept
    refine ⟨1, _, run_succ haccept, rfl, rfl, rfl, rfl, ?_⟩
    rw [if_neg hon]
    exact ⟨rfl, rfl⟩

/-! ### The handshake on a script of statuses (R165, T6) -/

/-- A poll records no response. -/
@[simp] theorem responses_pollLoop (P : Params) (site : PollSite) (flag : Byte) (done n : Nat) (s : State) :
    responses (pollLoop P site flag done n s).2.trace = responses s.trace := by
  obtain ⟨answers, -, -, htrace⟩ := pollLoop_trace P site flag done n s
  simp [htrace]

/-- The pseudocode's poll with what its site does on each value is the poll concluded there (R138). -/
theorem pollThen_eq_concludePoll (P : Params) (site : PollSite) (flag : Byte) (n : Nat) (s : State) :
    pollThen P site flag n (onTimeout site) (onSuccess site) s = concludePoll site (poll P site flag n s) := by
  unfold pollThen
  rcases poll P site flag n s with ⟨_ | _ | _, u⟩ <;> rfl

section Handshake

variable {P : Params} {s : State} {x : Byte} {rest : List Answer}

/-- The handshake's state after the power-on frame. -/
def afterPowerOn (P : Params) (s : State) : State := afterExchange (encPowerOn P) { s with pwr := .poweringOn }

/-- INIT in `Off`, its power-on frame answered: a poll with the whole budget, concluded at its site. -/
theorem initSequence_eq_concludePoll (hoff : s.pwr = .off) (h : s.answers = .ok [x] :: rest) :
    initSequence P s = concludePoll .init (pollLoop P .init P.flagSlaveOn 0 s.budget (afterPowerOn P s)) := by
  have hans : answerFor (encPowerOn P) { s with pwr := .poweringOn } = some [x] := answerFor_of_cons h rfl
  calc initSequence P s
      = pollThen P .init P.flagSlaveOn s.budget (onTimeout .init) (onSuccess .init) (afterPowerOn P s) := by
        rw [initSequence, if_pos hoff, exchange_of_some hans]; rfl
    _ = concludePoll .init (poll P .init P.flagSlaveOn s.budget (afterPowerOn P s)) := pollThen_eq_concludePoll ..
    _ = _ := rfl

/-- The handshake through scripted misses, `d` attempts of the budget then left. -/
theorem exists_initSequence_eq_of_misses {misses : List (Byte × Byte)} {d : Nat} (hoff : s.pwr = .off)
    (hbudget : s.budget = misses.length + d) (h : s.answers = .ok [x] :: (statusAnswers misses ++ rest))
    (hmiss : ∀ r ∈ misses, hit r.2 P.flagSlaveOn = false) :
    ∃ u, initSequence P s = concludePoll .init (pollLoop P .init P.flagSlaveOn misses.length d u) ∧
      u.answers = rest ∧ u.budget = d ∧ responses u.trace = responses s.trace ∧
      exchangeCount u.trace = exchangeCount s.trace + (1 + misses.length) ∧
      delayCount u.trace = delayCount s.trace + misses.length := by
  have hscript : (afterPowerOn P s).answers = statusAnswers misses ++ rest := by simp [afterPowerOn, h]
  obtain ⟨u, hloop, hans, hrem, hex, hdel⟩ := exists_pollLoop_eq_of_misses P .init P.flagSlaveOn hmiss hscript 0 d
  have hresp : responses u.trace = responses (afterPowerOn P s).trace := by
    simpa using congrArg (fun p => responses p.2.trace) hloop.symm
  have hleft : u.budget = s.budget - misses.length := hrem
  rw [← hbudget, Nat.zero_add] at hloop
  refine ⟨u, by rw [initSequence_eq_concludePoll hoff h, hloop], hans, by omega, ?_, ?_, ?_⟩
  · simpa [afterPowerOn] using hresp
  · simpa [afterPowerOn, Nat.add_assoc] using hex
  · simpa [afterPowerOn] using hdel

end Handshake

/-- Settles O57: after the misses the next attempt hits, or none is left. -/
theorem handshakeConsumesItsBudget : Obligations.HandshakeConsumesItsBudget := by
  intro P s x misses rest hoff hbudget h hmiss
  refine ⟨fun y b more hlt hrest hhit => ?_, fun hlen => ?_⟩
  · obtain ⟨d, hd⟩ := Nat.exists_eq_add_of_lt hlt
    obtain ⟨u, hinit, hans, hu, hresp, hex, hdel⟩ :=
      exists_initSequence_eq_of_misses (d := d + 1) hoff (hbudget.trans hd) h hmiss
    have hleft : (afterAttempt P .init u).budget = P.pwrAttempts - (misses.length + 1) := by
      have hspent : (afterAttempt P .init u).budget = u.budget - 1 := rfl
      omega
    rw [pollLoop_succ_of_answers P .init P.flagSlaveOn (r := (y, b)) (hans.trans hrest), if_pos hhit] at hinit
    simp only [hinit, concludePoll, onSuccess]
    refine ⟨rfl, hleft, ?_, ?_, ?_⟩
    · simp [afterAttempt, hresp]
    · simp [hex, Nat.add_assoc]
    · simp [hdel, Nat.add_assoc]
  · obtain ⟨u, hinit, -, hu, hresp, hex, hdel⟩ :=
      exists_initSequence_eq_of_misses (d := 0) hoff (hbudget.trans hlen.symm) h hmiss
    simp only [hinit, pollLoop, concludePoll, onTimeout, ← hlen]
    refine ⟨rfl, hu, ?_, ?_, ?_⟩
    · simp [hresp]
    · simp [hex]
    · simp [hdel]

end Sys2Proof.Machine
end

section
/-! Proof of the statement about errors (60_exceptions.md): outside RELEASE's exchange a step that responds with a code other
than `OK` takes the error (R191); RELEASE's exchange ends the Session instead (R162). -/

namespace Sys2Proof.Machine

/-! ### An error is taken, or there is none -/

/-- From `s` to `t` no response is given, or `OK` is, or the error `c` is taken in a state `u` of the power state and the
responses of `s`. -/
inductive ErrorsAreTaken (s t : State) : Prop
  | noResponse (h : responses t.trace = responses s.trace)
  | ok (d : List Byte) (x : Detail) (h : responses t.trace = responses s.trace ++ [(.ok, d, x)])
  | error (c : RespCode) (u : State) (ht : t = takeError c u) (hpwr : u.pwr = s.pwr)
      (hresp : responses u.trace = responses s.trace)

namespace ErrorsAreTaken

/-- `ErrorsAreTaken` looks at nothing of the earlier state but its power state and the responses recorded. -/
theorem congr {s s' t : State} (h : ErrorsAreTaken s t) (hpwr : s.pwr = s'.pwr)
    (hresp : responses s.trace = responses s'.trace) : ErrorsAreTaken s' t := by
  cases h with
  | noResponse h => exact .noResponse (h.trans hresp)
  | ok d x h => exact .ok d x (hresp ▸ h)
  | error c u ht hu hr => exact .error c u ht (hu.trans hpwr) (hr.trans hresp)

theorem of_trace_eq {s t : State} (h : t.trace = s.trace) : ErrorsAreTaken s t := .noResponse (congrArg responses h)

theorem of_respond_ok (d : List Byte) (x : Detail) {s t : State} (h : t.trace = s.trace) :
    ErrorsAreTaken s (respond .ok d x t) := .ok d x (by simp [h])

theorem of_takeError (c : RespCode) {s u : State} (hpwr : u.pwr = s.pwr) (h : u.trace = s.trace) :
    ErrorsAreTaken s (takeError c u) := .error c u rfl hpwr (congrArg responses h)

/-! #### The parts of a step -/

theorem of_onSuccess (site : PollSite) (s : State) : ErrorsAreTaken s (onSuccess site s) := by
  cases site with
  | init | write7 => exact of_respond_ok _ _ rfl
  | read2 | read5 | write2 | write5 => exact of_trace_eq rfl

/-- The timeouts of READ's polls are `OK` with a detail, the others are errors (R138). -/
theorem of_onTimeout (site : PollSite) (s : State) : ErrorsAreTaken s (onTimeout site s) := by
  cases site with
  | read2 | read5 => exact of_respond_ok _ _ rfl
  | init | write2 | write5 | write7 => exact of_takeError _ rfl rfl

theorem of_nextAttempt (site : PollSite) (s : State) : ErrorsAreTaken s (nextAttempt site s) := by
  unfold nextAttempt
  split
  · exact of_onTimeout site s
  · exact of_trace_eq rfl

theorem of_beginPoll (P : Params) (site : PollSite) (s : State) : ErrorsAreTaken s (beginPoll P site s) :=
  (of_nextAttempt site _).congr (by simp) (by simp)

theorem of_takeAvailable (inn : List Byte) (s : State) : ErrorsAreTaken s (takeAvailable inn s) := by
  unfold takeAvailable
  split
  · exact of_respond_ok _ _ rfl
  · exact of_trace_eq rfl

theorem of_takeFreeSpace (inn : List Byte) (s : State) : ErrorsAreTaken s (takeFreeSpace inn s) := by
  unfold takeFreeSpace
  split
  · exact of_takeError _ rfl rfl
  · exact of_trace_eq rfl

/-- An exchange with the `on BusFail` clause of R164: failed, it is the error `BusUnavailable`. -/
theorem of_exchange {out : List Byte} {g : List Byte → State → State} {s : State}
    (hg : ∀ inn u, ErrorsAreTaken u (g inn u)) : ErrorsAreTaken s (exchange out busFail g s) := by
  have hresp : responses (afterExchange out s).trace = responses s.trace := by simp
  rcases exchange_cases out busFail g s with ⟨-, heq⟩ | ⟨inn, -, -, heq⟩ <;> rw [heq]
  · exact .error .busUnavailable _ rfl rfl hresp
  · exact (hg inn _).congr rfl hresp

theorem of_statusAttempt (P : Params) (site : PollSite) (s : State) : ErrorsAreTaken s (statusAttempt P site s) := by
  refine (of_exchange (s := spendAttempt site s) fun inn u => ?_).congr (by simp) (by simp)
  split
  · exact of_onSuccess site u
  · exact of_nextAttempt site u

theorem of_configPhase (P : Params) (site : PollSite) (frame : Except FrameError (List Byte)) (s : State) :
    ErrorsAreTaken s (configPhase P site frame s) := by
  match frame with
  | .error .invalidArgument => exact of_takeError _ rfl rfl
  | .ok out => exact of_exchange fun _ => of_beginPoll P site

/-! #### Every kind of step but RELEASE's exchange -/

theorem of_phaseFrame {s t : State} {i : Instr} (hoff : s.seq ≠ .xOff) (hi : phaseFrame Config.params s = some i)
    (ht : exec i s = .next t) : ErrorsAreTaken s t := by
  rcases exec_phaseFrame_cases hi ht with ⟨site, -, -, rfl⟩ | ⟨-, -, rfl⟩ | ⟨site, reg, l, -, -, rfl⟩ |
    ⟨-, -, rfl⟩ | ⟨-, -, rfl⟩ | ⟨-, -, rfl⟩ | ⟨-, -, rfl⟩ | ⟨-, -, rfl⟩ | ⟨hs, -, -⟩
  · exact of_statusAttempt _ site s
  · exact of_exchange fun _ => of_beginPoll _ .init
  · exact of_configPhase _ site _ s
  · exact of_configPhase _ .write5 _ s
  · exact of_exchange of_takeAvailable
  · exact of_exchange of_takeFreeSpace
  · exact of_exchange fun _ _ => of_respond_ok _ _ rfl
  · exact of_exchange fun _ => of_beginPoll _ .write7
  · exact absurd hs hoff

theorem of_command {s t : State} {w : PortWord} {i : Instr} (hs : s.seq = .idle) (hi : decodeCommand w = .ok i)
    (ht : exec i s = .next t) : ErrorsAreTaken s t := by
  rcases decodeCommand_cases hi with rfl | rfl | ⟨rfl, -⟩ | rfl
  · rw [exec_init_of_idle hs] at ht; cases ht
    unfold acceptInit
    split
    · exact of_trace_eq rfl
    · exact of_takeError _ rfl rfl
  · rw [exec_read_of_idle hs] at ht; cases ht
    unfold acceptRead
    split
    · exact of_trace_eq rfl
    · exact of_takeError _ rfl rfl
  · rw [exec_write_of_idle hs] at ht; cases ht
    unfold acceptWrite
    split_ifs
    · exact of_takeError _ rfl rfl
    · exact of_trace_eq rfl
    · exact of_takeError _ rfl rfl
  · rw [exec_release_of_idle hs] at ht; cases ht
    unfold acceptRelease
    split
    · exact of_trace_eq rfl
    · exact of_respond_ok _ _ rfl

theorem of_step {s t : State} (hoff : s.seq ≠ .xOff) (ht : step s = .next t) : ErrorsAreTaken s t := by
  rcases step_cases ht with ⟨-, rfl⟩ | ⟨-, -, rfl⟩ | ⟨site, -, rfl⟩ | ⟨i, hi, hexec⟩ | ⟨w, rest, i, hs, -, hi, hexec⟩
  · exact .noResponse rfl
  · exact .noResponse rfl
  · exact .noResponse (by simp)
  · exact (of_phaseFrame (s := tick s) hoff hi hexec).congr rfl rfl
  · exact (of_command (s := takeCommand (tick s)) hs hi hexec).congr rfl rfl

end ErrorsAreTaken

/-! ### RELEASE's exchange -/

/-- A step at RELEASE's exchange is reset, which responds nothing, or ends the Session with one response (R162). -/
theorem step_of_xOff {s t : State} (hs : s.seq = .xOff) (ht : step s = .next t) :
    responses t.trace = responses s.trace ∨
    ∃ c u, responses u.trace = responses s.trace ∧ t = endSession Config.params c u := by
  by_cases hr : s.resetIn.head? = some true
  · rw [step_of_fetch_reset (by simp [fetch, hr])] at ht; cases ht
    exact .inl rfl
  · rw [step_of_phaseFrame (i := .powerOff) hr (by simp [phaseFrame, hs]), exec_powerOff_of_xOff (s := tick s) hs] at ht
    cases ht
    rcases exchange_cases (encPowerOff Config.params) (endSession Config.params .busUnavailable)
      (fun _ => endSession Config.params .ok) (tick s) with ⟨-, heq⟩ | ⟨-, -, -, heq⟩ <;> rw [heq] <;>
      exact .inr ⟨_, _, by simp, rfl⟩

/-! ### What an error does (R191) -/

/-- The fatal errors by name (R191(c)). -/
theorem fatal_iff {c : RespCode} : fatal c = true ↔ c = .powerOnTimeout ∨ c = .busUnavailable := by
  cases c <;> decide

/-- Settles O48: `takeError` is R191, and at RELEASE's exchange `endSession` stands in its place. -/
theorem errorsEndTheirCommand : Obligations.ErrorsEndTheirCommand := by
  intro s t c d x ht hresp hc
  have hnone : responses t.trace ≠ responses s.trace := by simp [hresp]
  by_cases hs : s.seq = .xOff
  · rcases step_of_xOff hs ht with h | ⟨c', u, hu, rfl⟩
    · exact absurd h hnone
    · obtain ⟨rfl, rfl, rfl⟩ : c' = c ∧ [] = d ∧ Detail.none = x := by simpa [hu] using hresp
      exact ⟨rfl, rfl, rfl, rfl, rfl, rfl, by simp [hs], by simp⟩
  · cases ErrorsAreTaken.of_step hs ht with
    | noResponse h => exact absurd h hnone
    | ok d' x' h =>
      obtain ⟨hok, -⟩ : RespCode.ok = c ∧ d' = d ∧ x' = x := by simpa [h] using hresp
      exact absurd hok.symm hc
    | error c' u htaken hpwr hu =>
      subst htaken
      obtain ⟨rfl, rfl, rfl⟩ : c' = c ∧ [] = d ∧ Detail.none = x := by simpa [hu] using hresp
      exact ⟨rfl, rfl, rfl, rfl, rfl, rfl, by simp [hs, hpwr, fatal_iff], by simp⟩

end Sys2Proof.Machine
end

section
/-! Proofs of the statements about reset and hazards (70_reset_and_hazards.md): the reset input and the state after it,
the turnaround of the bus (R224) and the flow control of data frames (R229). -/

namespace Sys2Proof

/-- The length that a config frame announces (R86); none for another frame. -/
def BusFrame.configLength : BusFrame → Option Nat
  | .configRead _ l | .configWrite _ l => some l
  | .statusRead | .dataRead _ | .dataWrite _ | .powerOn | .powerOff => none

end Sys2Proof

namespace Sys2Proof.Machine

/-! ### A rule for every exchange of a history

R224 and R229 each ask something of what stands before an exchange in the record. -/

/-- Every exchange of the history stands behind a history that `Q` admits its bytes after. -/
def Gated (Q : List Event → List Byte → Prop) (trace : List Event) : Prop :=
  ∀ before out answer after, trace = before ++ .exchange out answer :: after → Q before out

section Gated

variable {Q : List Event → List Byte → Prop}

theorem gated_nil : Gated Q [] := by
  intro before out answer after h
  simp at h

/-- A longer history keeps the rule when the exchanges added keep it. -/
theorem Gated.append {trace more : List Event} (h : Gated Q trace) (hmore : Gated (fun b => Q (trace ++ b)) more) :
    Gated Q (trace ++ more) := by
  intro before out answer after heq
  rcases List.append_eq_append_iff.mp heq with ⟨b, rfl, hb⟩ | ⟨b, rfl, hb⟩
  · exact hmore b out answer after hb
  · cases b with
    | nil => simpa using hmore [] out answer after hb.symm
    | cons e b =>
      obtain ⟨rfl, -⟩ := List.cons.inj hb
      exact h before out answer b rfl

theorem gated_of_exchangeCount {more : List Event} (h : exchangeCount more = 0) : Gated Q more := by
  rintro before out answer after rfl
  simp at h

theorem gated_exchange_cons {out : List Byte} {answer : Option (List Byte)} {more : List Event} (h : Q [] out)
    (hmore : exchangeCount more = 0) : Gated Q (.exchange out answer :: more) := by
  have hone : Gated Q [.exchange out answer] := by
    intro before out' answer' after heq
    cases before with
    | nil => cases heq; exact h
    | cons e before => simp at heq
  exact hone.append (gated_of_exchangeCount hmore)

/-- A step keeps a rule for exchanges when the frame of its phase keeps it: no step sends anything else. -/
theorem Gated.step {s t : State} (h : Gated Q s.trace) (ht : step s = .next t)
    (hframe : ∀ i out, phaseFrame Config.params s = some i → encode Config.params i = some (.frame out) →
      Q s.trace out) : Gated Q t.trace := by
  have of_quiet : ∀ {u : State}, u.trace = s.trace → Quiet u t → Gated Q t.trace := by
    rintro u hu ⟨-, more, htrace, hnone⟩
    rw [htrace, hu]
    exact h.append (gated_of_exchangeCount hnone)
  rcases step_cases ht with ⟨-, rfl⟩ | ⟨-, -, rfl⟩ | ⟨site, -, rfl⟩ | ⟨i, hi, hexec⟩ | ⟨w, rest, i, hs, -, hi, hexec⟩
  · exact h
  · exact h
  · exact of_quiet (u := tick s) rfl (quiet_delayStep _ site (tick s))
  · rcases quiet_or_sends_phaseFrame (s := tick s) hi hexec with hquiet | ⟨out, henc, -, answer, more, htrace, hnone⟩
    · exact of_quiet (u := tick s) rfl hquiet
    · rw [htrace]
      exact h.append (gated_exchange_cons (by simpa using hframe i out hi henc) hnone)
  · exact of_quiet (u := takeCommand (tick s)) rfl (quiet_command hs hi hexec)

end Gated

/-- The frame of a phase by its opcode byte: what it is read back as, and the step R56 names for it. -/
theorem exists_comesFromItsStep_of_isFrame {P : Params} {s : State} {i : Instr} {o : Opcode} {out : List Byte}
    (hi : phaseFrame P s = some i) (henc : encode P i = some (.frame out)) (ho : isFrame P o out) :
    ∃ f, f.opcode = o ∧ decodeFrame P out = .ok f ∧ ComesFromItsStep P s f := by
  obtain ⟨f, hf, hdec⟩ := decodeFrame_of_encode henc
  obtain ⟨rest, rfl, -⟩ := decodeFrame_eq_ok.mp hdec
  exact ⟨f, P.opcode_injective (Option.some.inj ho), hdec, comesFromItsStep_of_phaseFrame hi hf⟩

/-! ### Where a step lands -/

/-- The length announced for the data frame that a poll waits for (R141, R143); none for a poll that no data frame
follows. -/
def pollLength : PollSite → State → Option Nat
  | .read2, _ | .write2, _ => some 4
  | .read5, s => some s.len.toNat
  | .write5, s => some s.buf.length
  | .init, _ | .write7, _ => none

theorem announcedIn_of_siteWait {site : PollSite} {s : State} (hs : s.seq = siteWait site) :
    announcedIn s = pollLength site s := by
  unfold announcedIn; rw [hs]; cases site <;> rfl

theorem announcedIn_of_siteStat {site : PollSite} {s : State} (hs : s.seq = siteStat site) :
    announcedIn s = pollLength site s := by
  unfold announcedIn; rw [hs]; cases site <;> rfl

theorem announcedIn_onSuccess (site : PollSite) (s : State) : announcedIn (onSuccess site s) = pollLength site s := by
  cases site <;> rfl

theorem pollLength_congr {s t : State} (hlen : t.len = s.len) (hbuf : t.buf = s.buf) (site : PollSite) :
    pollLength site t = pollLength site s := by
  cases site <;> simp only [pollLength, hlen, hbuf]

@[simp] theorem pollLength_delayStep (P : Params) (site : PollSite) (s : State) :
    pollLength site (delayStep P site s) = pollLength site s :=
  pollLength_congr (delayStep_len P site s) (delayStep_buf P site s) site

theorem pollLength_of_issuesConfigRead {s : State} {site : PollSite} {reg : Register} {l : U32}
    (h : IssuesConfigRead s site reg l) : pollLength site s = some l.toNat := by
  rcases h with ⟨-, rfl, -, rfl⟩ | ⟨-, rfl, -, rfl⟩ | ⟨-, rfl, -, rfl⟩ <;> rfl

theorem bufLength_toNat {s : State} (h : s.buf.length < 2 ^ 32) : (bufLength s).toNat = s.buf.length := by
  rw [bufLength, BitVec.toNat_ofNat, Nat.mod_eq_of_lt h]

/-- A data frame is announced in every phase that issues one. -/
theorem issuesData_of_announcedIn_eq_none {s : State} (h : announcedIn s = none) : issuesData s.seq = false := by
  unfold announcedIn at h
  cases hs : s.seq <;> simp [hs] at h <;> rfl

/-- Where the acceptance of a command, or a frame of one, leads from `s`. -/
inductive Lands (P : Params) (s t : State) : Prop
  /-- To a phase that asks nothing of the history. -/
  | free (hstat : siteOfStat t.seq = none) (hfree : announcedIn t = none)
  /-- From a config frame to its poll. -/
  | configured (site : PollSite) (f : BusFrame) (l : Nat) (out : List Byte) (answer : Option (List Byte))
      (hf : f.configLength = some l) (hdec : decodeFrame P out = .ok f)
      (hlen : s.buf.length < 2 ^ 32 → pollLength site s = some l)
      (hkept : pollLength site t = pollLength site s) (ht : t.seq = siteWait site)
      (htrace : t.trace = s.trace ++ [.exchange out answer])
  /-- From a status read that missed to the next attempt. -/
  | missed (site : PollSite) (answer : Option (List Byte)) (hs : s.seq = siteStat site)
      (hkept : pollLength site t = pollLength site s) (ht : t.seq = siteWait site)
      (htrace : t.trace = s.trace ++ [.exchange (encStatusRead P) answer])
  /-- From a status read that hit to what the site does then. -/
  | hit (site : PollSite) (u : State) (inn : List Byte) (hs : s.seq = siteStat site)
      (hkept : pollLength site u = pollLength site s) (ht : t = onSuccess site u)
      (htrace : u.trace = s.trace ++ [.exchange (encStatusRead P) (some inn)])
      (hhit : hit (statusByte inn) (siteFlag P site) = true)

namespace Lands

variable {P : Params} {s t : State}

theorem of_idle (ht : t.seq = .idle) : Lands P s t := .free (by rw [ht]; rfl) (by simp [announcedIn, ht])

theorem of_exchange {out : List Byte} {g : List Byte → State → State} {u : State}
    (hg : ∀ inn, answerFor out u = some inn → Lands P s (g inn (afterExchange out u))) :
    Lands P s (exchange out busFail g u) := by
  rcases exchange_cases out busFail g u with ⟨-, heq⟩ | ⟨inn, hans, -, heq⟩ <;> rw [heq]
  · exact of_idle rfl
  · exact hg inn hans

/-- The loop's head leads to the site's delay, or the poll has timed out. -/
theorem of_nextAttempt {site : PollSite} {u : State} (h : Lands P s { u with seq := siteWait site }) :
    Lands P s (nextAttempt site u) := by
  unfold nextAttempt
  split
  · exact of_idle (by cases site <;> rfl)
  · exact h

theorem of_statusAttempt {site : PollSite} (hs : s.seq = siteStat site) : Lands P s (statusAttempt P site s) := by
  refine of_exchange fun inn hans => ?_
  split
  next hhit =>
    exact .hit site _ inn hs (pollLength_congr (by simp) (by simp) site) rfl (by simpa using hans) hhit
  next =>
    exact of_nextAttempt
      (.missed site (answerFor (encStatusRead P) s) hs (pollLength_congr (by simp) (by simp) site) rfl (by simp))

/-- A config frame that is built announces its length to the poll behind it. -/
theorem of_configPhase {site : PollSite} {i : Instr} {f : BusFrame} {l : Nat} {frame : Except FrameError (List Byte)}
    (hi : encode P i = frame.toOption.map .frame) (hif : i.busFrame = some f)
    (hf : f.configLength = some l)
    (hlen : s.buf.length < 2 ^ 32 → pollLength site s = some l) : Lands P s (configPhase P site frame s) := by
  match frame with
  | .error .invalidArgument => exact of_idle rfl
  | .ok out =>
    obtain ⟨f', hf', hdec⟩ := decodeFrame_of_encode (out := out) hi
    cases hif.symm.trans hf'
    refine of_exchange fun inn _ => of_nextAttempt ?_
    exact .configured site f l out (answerFor out s) hf hdec hlen (pollLength_congr (by simp) (by simp) site) rfl
      (by simp)

theorem of_phaseFrame {i : Instr} (hi : phaseFrame Config.params s = some i) (ht : exec i s = .next t) :
    Lands Config.params s t := by
  rcases exec_phaseFrame_cases hi ht with ⟨site, hs, -, rfl⟩ | ⟨-, -, rfl⟩ | ⟨site, reg, l, hconfig, rfl, rfl⟩ |
    ⟨-, rfl, rfl⟩ | ⟨-, -, rfl⟩ | ⟨-, -, rfl⟩ | ⟨-, -, rfl⟩ | ⟨-, -, rfl⟩ | ⟨-, -, rfl⟩
  · exact of_statusAttempt hs
  · exact of_exchange fun _ _ => of_nextAttempt (.free rfl rfl)
  · exact of_configPhase (i := .configRead _ l) rfl rfl rfl fun _ => pollLength_of_issuesConfigRead hconfig
  · exact of_configPhase (i := .configWrite _ (bufLength s)) rfl rfl rfl fun hbuf => by
      rw [bufLength_toNat hbuf, pollLength]
  · refine of_exchange fun inn _ => ?_
    unfold takeAvailable
    split
    · exact of_idle rfl
    · exact .free rfl rfl
  · refine of_exchange fun inn _ => ?_
    unfold takeFreeSpace
    split
    · exact of_idle rfl
    · exact .free rfl rfl
  · exact of_exchange fun _ _ => of_idle rfl
  · exact of_exchange fun _ _ => of_nextAttempt (.free rfl rfl)
  · rcases exchange_cases (encPowerOff Config.params) (endSession Config.params .busUnavailable)
      (fun _ => endSession Config.params .ok) s with ⟨-, heq⟩ | ⟨-, -, -, heq⟩ <;> rw [heq] <;> exact of_idle rfl

theorem of_command {w : PortWord} {i : Instr} (hs : s.seq = .idle) (hi : decodeCommand w = .ok i)
    (ht : exec i s = .next t) : Lands P s t := by
  rcases decodeCommand_cases hi with rfl | rfl | ⟨rfl, -⟩ | rfl
  · rw [exec_init_of_idle hs] at ht; cases ht
    unfold acceptInit
    split <;> exact .free rfl rfl
  · rw [exec_read_of_idle hs] at ht; cases ht
    unfold acceptRead
    split <;> exact .free rfl rfl
  · rw [exec_write_of_idle hs] at ht; cases ht
    unfold acceptWrite
    split_ifs <;> exact .free rfl rfl
  · rw [exec_release_of_idle hs] at ht; cases ht
    unfold acceptRelease
    split <;> exact .free rfl rfl

/-- A status phase is entered by a delay alone (R135). -/
theorem siteOfStat_eq_none (h : Lands P s t) : siteOfStat t.seq = none := by
  cases h with
  | free hstat => exact hstat
  | configured site _ _ _ _ _ _ _ _ ht | missed site _ _ _ ht => rw [ht]; cases site <;> rfl
  | hit site u _ _ _ ht => rw [ht]; cases site <;> rfl

end Lands

/-! ### The turnaround of the bus (R224) -/

/-- Settles O44: the frame of a status phase is the only status read a step can make, and a delay stands before
the phase. -/
theorem stepKeepsTheTurnaround : Obligations.StepKeepsTheTurnaround := by
  rintro s t ⟨hreads, hphase⟩ ht
  refine ⟨Gated.step hreads ht fun i out hi henc hout => ?_, fun site hsite => ?_⟩
  · obtain ⟨f, hop, -, hfrom⟩ := exists_comesFromItsStep_of_isFrame hi henc hout
    cases f <;> cases hop
    obtain ⟨site, hs⟩ := hfrom
    exact hphase site (siteOfStat_eq_some.mpr hs)
  · rcases step_cases ht with ⟨-, rfl⟩ | ⟨-, -, rfl⟩ | ⟨site, -, rfl⟩ | ⟨i, hi, hexec⟩ | ⟨w, rest, i, hs, -, hi, hexec⟩
    · cases hsite
    · exact hphase site hsite
    · simp
    · cases hsite.symm.trans (Lands.of_phaseFrame (s := tick s) hi hexec).siteOfStat_eq_none
    · cases hsite.symm.trans
        (Lands.of_command (P := Config.params) (s := takeCommand (tick s)) hs hi hexec).siteOfStat_eq_none

/-! ### The length announced -/

section Announced

variable (P : Params) (trace : List Event)

theorem announced_concat (e : Event) : announced P (trace ++ [e]) = announceStep P (announced P trace) e := by
  simp [announced]

@[simp] theorem announced_delay (d : Nat) : announced P (trace ++ [.delay d]) = announced P trace :=
  announced_concat P trace _

@[simp] theorem announced_statusRead (answer : Option (List Byte)) :
    announced P (trace ++ [.exchange (encStatusRead P) answer]) = announced P trace := by
  rw [announced_concat]
  simp [announceStep, encStatusRead, decodeFrame, decodeFixed]

variable {P} in
/-- A config frame announces its length, whatever was announced before it. -/
theorem announced_config {f : BusFrame} {l : Nat} {out : List Byte} (hf : f.configLength = some l)
    (hdec : decodeFrame P out = .ok f) (answer : Option (List Byte)) :
    announced P (trace ++ [.exchange out answer]) = some l := by
  rw [announced_concat]
  cases f <;> cases hf <;> simp only [announceStep, hdec]

end Announced

/-! ### Flow control (R229) -/

/-- What a state's phase asks of the history: the announcement, and FIFO-ready directly before a data frame. -/
def PhaseServed (P : Params) (s : State) : Prop :=
  (∀ n, announcedIn s = some n → announced P s.trace = some n) ∧ (issuesData s.seq = true → ReadyJustSeen P s.trace)

theorem phaseServed_of_announcedIn_eq_none {P : Params} {s : State} (h : announcedIn s = none) : PhaseServed P s := by
  simp [PhaseServed, h, issuesData_of_announcedIn_eq_none h]

theorem issuesData_siteWait (site : PollSite) : issuesData (siteWait site) = false := by cases site <;> rfl
theorem issuesData_siteStat (site : PollSite) : issuesData (siteStat site) = false := by cases site <;> rfl

/-- A hit that leads to a data frame is FIFO-ready (R138). -/
theorem siteFlag_of_issuesData_onSuccess {P : Params} {site : PollSite} {s : State}
    (h : issuesData (onSuccess site s).seq = true) :
    siteFlag P site = P.flagFifoReady ∧ (onSuccess site s).trace = s.trace := by
  cases site with
  | init | write7 => cases h
  | read2 | read5 | write2 | write5 => exact ⟨rfl, rfl⟩

theorem onSuccess_trace_of_pollLength {site : PollSite} {s : State} {n : Nat} (h : pollLength site s = some n) :
    (onSuccess site s).trace = s.trace := by
  cases site with
  | init | write7 => cases h
  | read2 | read5 | write2 | write5 => rfl

theorem PhaseServed.delayStep {P : Params} {s : State} {site : PollSite} (h : PhaseServed P s)
    (hs : s.seq = siteWait site) : PhaseServed P (delayStep P site s) := by
  obtain ⟨hann, -⟩ := h
  refine ⟨fun n hn => ?_, ?_⟩
  · rw [announcedIn_of_siteStat (site := site) rfl, pollLength_delayStep, ← announcedIn_of_siteWait hs] at hn
    simpa using hann n hn
  · simp [issuesData_siteStat]

theorem PhaseServed.lands {P : Params} {s t : State} (h : PhaseServed P s) (hbuf : s.buf.length < 2 ^ 32)
    (ht : Lands P s t) : PhaseServed P t := by
  obtain ⟨hann, -⟩ := h
  cases ht with
  | free _ hfree => exact phaseServed_of_announcedIn_eq_none hfree
  | configured site f l out answer hf hdec hlen hkept hseq htrace =>
    refine ⟨fun n hn => ?_, by simp [hseq, issuesData_siteWait]⟩
    rw [announcedIn_of_siteWait hseq, hkept, hlen hbuf] at hn
    rw [htrace, announced_config _ hf hdec, hn]
  | missed site answer hs hkept hseq htrace =>
    refine ⟨fun n hn => ?_, by simp [hseq, issuesData_siteWait]⟩
    rw [announcedIn_of_siteWait hseq, hkept, ← announcedIn_of_siteStat hs] at hn
    rw [htrace, announced_statusRead, hann n hn]
  | hit site u inn hs hkept hto htrace hhit =>
    subst hto
    refine ⟨fun n hn => ?_, fun hdata => ?_⟩
    · rw [announcedIn_onSuccess] at hn
      rw [onSuccess_trace_of_pollLength hn, htrace, announced_statusRead,
        hann n (by rw [announcedIn_of_siteStat hs, ← hkept, hn])]
    · obtain ⟨hflag, heq⟩ := siteFlag_of_issuesData_onSuccess (P := P) hdata
      exact ⟨inn, by rw [heq, htrace, List.getLast?_concat], hflag ▸ hhit⟩

/-- `buf` is never longer than a u32 can say (R21). -/
theorem Inv.buf_length_lt {P : Params} {s : State} (h : Inv P s) : s.buf.length < 2 ^ 32 := by
  have hbuf := h.buf_fits
  split at hbuf
  · exact hbuf.2
  · simp [hbuf]

theorem PhaseServed.step {s t : State} (h : PhaseServed Config.params s) (hinv : Inv Config.params s)
    (ht : step s = .next t) : PhaseServed Config.params t := by
  rcases step_cases ht with ⟨-, rfl⟩ | ⟨-, -, rfl⟩ | ⟨site, hs, rfl⟩ | ⟨i, hi, hexec⟩ | ⟨w, rest, i, hs, -, hi, hexec⟩
  · exact phaseServed_of_announcedIn_eq_none rfl
  · exact h
  · exact PhaseServed.delayStep (s := tick s) h hs
  · exact PhaseServed.lands (s := tick s) h hinv.buf_length_lt (.of_phaseFrame hi hexec)
  · exact PhaseServed.lands (s := takeCommand (tick s)) h hinv.buf_length_lt (.of_command hs hi hexec)

/-- A data-write is issued in `W_DATA` alone, with the whole payload (R143). -/
theorem dataWrite_of_isFrame {P : Params} {s : State} {i : Instr} {out : List Byte} (hi : phaseFrame P s = some i)
    (henc : encode P i = some (.frame out)) (hout : isFrame P .dataWrite out) :
    s.seq = .wData ∧ out = encDataWrite P s.buf := by
  obtain ⟨f, hop, hdec, hfrom⟩ := exists_comesFromItsStep_of_isFrame hi henc hout
  cases f <;> cases hop
  obtain ⟨hs, rfl⟩ := hfrom
  obtain ⟨rest, rfl, hrest⟩ := decodeFrame_eq_ok.mp hdec
  cases hrest
  exact ⟨hs, rfl⟩

/-- A data frame is issued in a data phase, with the length announced there. -/
theorem announcedIn_of_dataFrame {P : Params} {s : State} {i : Instr} {out : List Byte}
    (hi : phaseFrame P s = some i) (henc : encode P i = some (.frame out))
    (hout : isFrame P .dataRead out ∨ isFrame P .dataWrite out) :
    announcedIn s = some (out.length - 1) ∧ issuesData s.seq = true := by
  rcases hout with hout | hout
  · obtain ⟨f, hop, hdec, hfrom⟩ := exists_comesFromItsStep_of_isFrame hi henc hout
    cases f <;> cases hop
    obtain ⟨rest, rfl, hrest⟩ := decodeFrame_eq_ok.mp hdec
    cases hrest
    rcases hfrom with ⟨hs, hn⟩ | ⟨hs, hn⟩ | ⟨hs, hn⟩ <;> simp [announcedIn, issuesData, hs, hn]
  · obtain ⟨hs, rfl⟩ := dataWrite_of_isFrame hi henc hout
    simp [announcedIn, issuesData, hs]

/-- Settles O45: the phase of a data frame has its length announced and FIFO-ready just seen, and `Inv` has its payload
fit the free space. -/
theorem stepKeepsFlowControl : Obligations.StepKeepsFlowControl := by
  rintro s t hinv ⟨hgated, hserved⟩ ht
  refine ⟨⟨Gated.step hgated ht fun i out hi henc hout => ?_, PhaseServed.step hserved hinv ht⟩,
    fun out answer more htrace hout => ?_⟩
  · obtain ⟨hann, hdata⟩ := announcedIn_of_dataFrame hi henc hout
    exact ⟨hserved.1 _ hann, hserved.2 hdata⟩
  · obtain ⟨i, hi, henc⟩ := phaseFrame_of_step_exchange ht htrace
    obtain ⟨hs, rfl⟩ := dataWrite_of_isFrame hi henc hout
    have hfits : s.buf.length ≤ s.len.toNat := by simpa [hs, afterAvailable, afterFreeSpace] using hinv.len_fits
    exact ⟨hfits, rfl⟩

/-! ### Reset (R220, R221) -/

/-- Settles O39: the reset input is fetched before anything else, and an idle block without a command waits. -/
theorem resetLeavesItsValues : Obligations.ResetLeavesItsValues := by
  refine ⟨⟨rfl, rfl, rfl, rfl, rfl, rfl⟩, fun s hr => ?_, fun s hs hr hp => ?_⟩
  · have hfetch : fetch Config.params s = .reset := if_pos hr
    rw [step_of_fetch_reset hfetch]
    rfl
  · have hfetch : fetch Config.params s = .waitHost := by simp [fetch, hr, hs, siteOfWait, phaseFrame, fetchCommand, hp]
    rw [step_of_fetch_waitHost hfetch]
    rfl

/-- Settles O42: an idle block with cleared elements is legal, and an empty history keeps every rule for exchanges. -/
theorem resetIsLegal : Obligations.ResetIsLegal :=
  ⟨inv_of_idle rfl rfl rfl rfl le_rfl (fun _ => rfl) nofun, ⟨gated_nil, nofun⟩,
    gated_nil, phaseServed_of_announcedIn_eq_none rfl⟩

end Sys2Proof.Machine
end

section
/-! Proofs of the statements about words read back: the byte split and sum (00_scope.md R10), an instruction from its own
words (30_encoding.md R91, R95), a config frame's operands (40_frame_encoder.md R119). -/

namespace Sys2Proof

/-! ### The byte split and sum (R10) -/

/-- The four bytes of `le32` are the value's base-256 digits, least significant first. -/
theorem le32_eq_iff {v : U32} {b0 b1 b2 b3 : Byte} :
    le32 v = [b0, b1, b2, b3] ↔ b0.toNat = v.toNat % 256 ∧ b1.toNat = v.toNat / 256 % 256 ∧
      b2.toNat = v.toNat / 65536 % 256 ∧ b3.toNat = v.toNat / 16777216 := by
  have htop : v.toNat / 16777216 % 256 = v.toNat / 16777216 := Nat.mod_eq_of_lt (by have hv := v.isLt; omega)
  simp [le32, ← BitVec.toNat_inj, Nat.shiftRight_eq_div_pow, htop, eq_comm]

/-- `unle32` is the weighted sum of its bytes: it does not overflow. -/
theorem toNat_unle32 (b0 b1 b2 b3 : Byte) :
    (unle32 b0 b1 b2 b3).toNat = b0.toNat + 256 * b1.toNat + 65536 * b2.toNat + 16777216 * b3.toNat := by
  have h0 := b0.isLt
  have h1 := b1.isLt
  have h2 := b2.isLt
  have h3 := b3.isLt
  simp only [unle32, BitVec.toNat_add, BitVec.toNat_mul, BitVec.toNat_setWidth, BitVec.toNat_ofNat]
  omega

/-- `unle32` undone (R10). -/
theorem le32_unle32 (b0 b1 b2 b3 : Byte) : le32 (unle32 b0 b1 b2 b3) = [b0, b1, b2, b3] := by
  have h0 := b0.isLt
  have h1 := b1.isLt
  have h2 := b2.isLt
  rw [le32_eq_iff, toNat_unle32]
  omega

/-- Settles O1: the bytes are the digits of the value, and the value is the sum of its digits. -/
theorem littleEndianRoundTrip : Obligations.LittleEndianRoundTrip := by
  refine ⟨fun v => ?_, fun b0 b1 b2 b3 => ⟨toNat_unle32 b0 b1 b2 b3, le32_unle32 b0 b1 b2 b3⟩⟩
  obtain ⟨h0, h1, h2, h3⟩ := le32_eq_iff.mp (rfl : le32 v = _)
  exact ⟨_, _, _, _, rfl, h0, h1, h2, h3, unle32_le32_bytes v⟩

/-! ### A config frame's operands (R119) -/

/-- Format C in its nine bytes, whatever the opcode byte: the address, and the length minus one. -/
theorem exists_encConfig_eq_ok (op : Byte) (a : U32) {l : U32} (hl : l ≠ 0#32) :
    ∃ a0 a1 a2 a3 m0 m1 m2 m3, encConfig op a l = .ok [op, a0, a1, a2, a3, m0, m1, m2, m3] ∧
      unle32 a0 a1 a2 a3 = a ∧ (unle32 m0 m1 m2 m3).toNat = l.toNat - 1 := by
  obtain ⟨a0, a1, a2, a3, m0, m1, m2, m3, hbytes, hframe⟩ := decodeConfig_eq_ok.mp (decodeConfig_le32 .configRead a hl)
  obtain ⟨haddress, hlength⟩ := BusFrame.configRead.inj hframe
  exact ⟨a0, a1, a2, a3, m0, m1, m2, m3, by rw [encConfig_of_ne hl, hbytes], haddress, Nat.eq_sub_of_add_eq hlength⟩

/-- Settles O3: both config frames are format C behind their opcode byte. -/
theorem configFramesRoundTrip : Obligations.ConfigFramesRoundTrip := fun P a _ hl =>
  ⟨exists_encConfig_eq_ok P.opcConfigRead a hl, exists_encConfig_eq_ok P.opcConfigWrite a hl⟩

/-! ### An instruction, from its own words (R91, R95) -/

/-- The frame of a well-formed instruction has that instruction: its operands are u32. -/
theorem instrOfFrame_busFrame {i : Instr} {f : BusFrame} (hf : i.busFrame = some f) (hwf : i.wf = true) :
    instrOfFrame f = .ok i := by
  cases i with
  | statusRead | powerOn | powerOff => cases hf; rfl
  | configRead _ _ | configWrite _ _ | dataRead _ => cases hf; exact operandU32_toNat _ _
  | dataWrite p => cases hf; exact instrOfFrame_dataWrite_eq_ok.mpr ⟨of_decide_eq_true hwf, rfl⟩
  | poll _ _ | init | read | write _ | release => cases hf

/-- The port word of a well-formed command is that command (R91). -/
theorem decodeCommand_of_encode {P : Params} {i : Instr} {w : PortWord} (h : encode P i = some (.command w))
    (hwf : i.wf = true) : decodeCommand w = .ok i := by
  cases i with
  | init | read | release => cases h; rfl
  | write p => cases h; exact if_pos hwf
  | configRead _ _ | configWrite _ _ =>
    obtain ⟨_, -, hframe⟩ := Option.map_eq_some_iff.mp h
    cases hframe
  | statusRead | dataRead _ | dataWrite _ | powerOn | powerOff | poll _ _ => cases h

/-- Settles O4: a frame read back has its instruction, and a port word its command. -/
theorem decodeInvertsEncode : Obligations.DecodeInvertsEncode := by
  intro P i w hwf henc
  cases w with
  | frame out =>
    obtain ⟨f, hf, hdec⟩ := decodeFrame_of_encode henc
    rw [decode_frame_of_decodeFrame hdec, instrOfFrame_busFrame hf hwf]
  | command w => exact decodeCommand_of_encode henc hwf

/-- Settles O7: each frame, and the WRITE, is the word that its instruction encodes to; the other codes ignore the payload. -/
theorem sampleWordsDecode : Obligations.SampleWordsDecode := fun P =>
  ⟨decodeInvertsEncode P .statusRead _ rfl rfl,
    decodeInvertsEncode P (.configRead 8 4) _ rfl rfl,
    decodeInvertsEncode P (.configWrite 0x1000 257) _ rfl rfl,
    decodeInvertsEncode P (.dataRead 4) _ rfl rfl,
    decodeInvertsEncode P (.dataWrite [0xFF, 0x06, 0x0E]) _ rfl rfl,
    decodeInvertsEncode P .powerOn _ rfl rfl,
    decodeInvertsEncode P .powerOff _ rfl rfl,
    decodeInvertsEncode P (.write [0x50, 0x49]) _ rfl rfl,
    fun _ => ⟨rfl, rfl, rfl⟩⟩

end Sys2Proof
end

section
/-! Proofs of the statements about the hit test, a poll that a failed exchange ends (41_status_poller.md), and a config frame
that cannot be built (40_frame_encoder.md R110). -/

namespace Sys2Proof.Machine

/-! ### The hit test (R133) -/

theorem hit_iff {status : Byte} (hs : status ≠ 0xFF#8) (mask : Byte) :
    hit status mask = true ↔ status &&& mask ≠ 0#8 := by
  simp [hit, hs]

@[simp] theorem hit_zero_mask (status : Byte) : hit status 0#8 = false := by simp [hit]

/-- Settles O8: a status other than the sentinel is tested by its bits under the mask alone. -/
theorem hitIsAnyBitOfTheMask : Obligations.HitIsAnyBitOfTheMask := by
  refine ⟨fun _ mask hs => hit_iff hs mask, hit_zero_mask, fun status status' mask hs hs' hagree => ?_⟩
  rw [Bool.eq_iff_iff, hit_iff hs, hit_iff hs', hagree]

/-! ### A failed exchange inside a poll (R136) -/

/-- A scripted failure is no answer. -/
theorem answerFor_of_fail {s : State} {rest : List Answer} (h : s.answers = .fail :: rest) (out : List Byte) :
    answerFor out s = none := by
  rw [answerFor, h]

/-- One turn of the loop with its exchange failed: the loop ends, the attempt spent. -/
theorem pollLoop_succ_of_fail (P : Params) (site : PollSite) (flag : Byte) {s : State} {rest : List Answer}
    (h : s.answers = .fail :: rest) (done n : Nat) :
    pollLoop P site flag done (n + 1) s = (.busFailed, afterAttempt P site s) := by
  rw [pollLoop_succ, answerFor_of_fail (s := delay P s) h]
  rfl

/-- After scripted misses fewer than its attempts, a failed exchange ends the poll, one attempt on. -/
theorem exists_poll_eq_busFailed (P : Params) (site : PollSite) {flag : Byte} {n : Nat} {s : State}
    {misses : List (Byte × Byte)} {rest : List Answer} (h : s.answers = statusAnswers misses ++ .fail :: rest)
    (hn : misses.length < n) (hmiss : ∀ r ∈ misses, hit r.2 flag = false) :
    ∃ u, poll P site flag n s = (.busFailed, u) ∧ remaining site u = n - (misses.length + 1) ∧
      exchangeCount u.trace = exchangeCount s.trace + misses.length + 1 ∧ u.answers = rest := by
  obtain ⟨d, rfl⟩ := Nat.exists_eq_add_of_lt hn
  obtain ⟨u, hloop, hans, hrem, hex, -⟩ := exists_pollLoop_eq_of_misses P site flag hmiss
    (s := loadCounter site (misses.length + d + 1) s) (by simpa using h) 0 (d + 1)
  rw [pollLoop_succ_of_fail P site flag hans] at hloop
  refine ⟨afterAttempt P site u, hloop, ?_, ?_, ?_⟩
  · rw [remaining_afterAttempt, hrem, remaining_loadCounter, Nat.sub_sub]
  · rw [exchangeCount_afterAttempt, hex, loadCounter_trace]
  · rw [afterAttempt_answers, hans, List.tail_cons]

/-- Settles O34: the poll ends with the failed exchange, and `busFail` ends the command at its site. -/
theorem pollEndsAtAFailedExchange : Obligations.PollEndsAtAFailedExchange := by
  intro site flag n s misses rest hs hans hn hmiss
  obtain ⟨u, hpoll, hrem, hex, hrest⟩ := exists_poll_eq_busFailed Config.params site hans hn hmiss
  exact ⟨u, hpoll, hrem, hex, hrest, by rw [exec_poll_eq_concludePoll hs, hpoll]; rfl⟩

/-! ### A config frame of length 0 (R110, R191) -/

/-- A config frame of length 0 is the error alone, whatever its poll. -/
theorem configPhase_of_length_zero (P : Params) (site : PollSite) (op : Byte) (a : U32) (s : State) :
    configPhase P site (encConfig op a 0#32) s = takeError .invalidArgument s := by
  rw [encConfig_error_iff.mpr rfl, configPhase]

/-- Settles O23: the error of a frame that cannot be built, in the four phases that issue a config frame. -/
theorem configFrameOfLengthZeroIsAnError : Obligations.ConfigFrameOfLengthZeroIsAnError := by
  intro s a t
  have herror : takeError .invalidArgument s = t := takeError_of_not_fatal rfl s
  have hread : ∀ {site}, siteAfterConfigRead s.seq = some site → exec (.configRead a 0#32) s = .next t := fun h => by
    rw [exec_configRead_of_site h, encConfigRead, configPhase_of_length_zero, herror]
  refine ⟨?_, fun hs => ?_⟩
  · rintro (hs | hs | hs) <;> exact hread (congrArg siteAfterConfigRead hs)
  · rw [exec_configWrite_of_site (congrArg siteAfterConfigWrite hs), encConfigWrite, configPhase_of_length_zero, herror]

end Sys2Proof.Machine
end
